-- ==== Sys2Proof/Word.lean ====
section
/-! DEFINITION. The bit vectors and index types of the SK4120: bytes, register words, 40-bit addresses, slots, levels, tags and issue identifiers. -/

namespace Sys2Proof

/-- A byte of data, of a record in memory or of a management frame. -/
abbrev Byte := BitVec 8

/-- A management register value (00_scope, Management registers: 32 bits). -/
abbrev Word := BitVec 32

/-- A request, target or table address (00_scope, Addresses: 40 bits on every port and in every table). -/
abbrev Addr := BitVec 40

/-- A slot number 0..15. -/
abbrev Slot := Fin 16

/-- An access level 0..3, 0 the most privileged. -/
abbrev Level := Fin 4

/-- A request tag 0..31 (2.1). -/
abbrev Tag := Fin 32

/-- An issue identifier of a memory port's pool of 256 (R75). -/
abbrev IssueId := BitVec 8

end Sys2Proof
end

