-- ==== Sys2Proof/Syntax.lean ====
section
/-! DEFINITION. The commands of the block: one constructor of Instr for each row of spec/opcode_table.json, with the operands the rows' events carry. -/

namespace Sys2Proof

/-- Direction of a transfer (2.1). -/
inductive Op where
  | read
  | write
  deriving DecidableEq, Repr

/-- The lane a request travels on (2.1). -/
inductive Lane where
  | regular
  | priority
  deriving DecidableEq, Repr

/-- The request record of 2.1.  `length` is a number, because the form check (R27) judges lengths
outside 1..256; `mask` and `data` are present for a WRITE and empty for a READ. -/
structure Request where
  initiator : Slot
  tag : Tag
  op : Op
  addr : Addr
  length : Nat
  mask : List Bool
  lane : Lane
  data : List Byte
  deriving DecidableEq, Repr

/-- A memory port: the P-port or the A-port. -/
inductive MemPort where
  | primary
  | aux
  deriving DecidableEq, Repr

/-- The status a response carries (R74), and the way an issued granule settles. -/
inductive RespStatus where
  | ok
  | error
  deriving DecidableEq, Repr

/-- How far a LOG_DATA read frame comes in one command (R173, log entry 8): the whole frame, its
bytes up to byte 3, or the bytes from 4 to 8 of the LOG_DATA read in progress, byte 7 among them. -/
inductive ReadExtent where
  | whole
  | toByte3
  | byte7
  deriving DecidableEq, Repr

/-- The commands, one constructor for each row of the table. -/
inductive Instr where
  /-- REQUEST_ARRIVAL (R26). -/
  | requestArrival (r : Request)
  /-- DECODE_ATTEMPT (R39). -/
  | decodeAttempt
  /-- COMPLETION_SEND (R35). -/
  | completionSend
  /-- AUX_PORT_ISSUE (R73). -/
  | auxPortIssue
  /-- PRIMARY_PORT_ISSUE (R76). -/
  | primaryPortIssue
  /-- RESPONSE_ARRIVAL (R78). -/
  | responseArrival (port : MemPort) (id : IssueId) (status : RespStatus) (data : List Byte)
  /-- RESPONSE_LIMIT_EXPIRY (R82), of the operation issued on `port` under `id`. -/
  | responseLimitExpiry (port : MemPort) (id : IssueId)
  /-- EPOCH_EXPIRY (R96). -/
  | epochExpiry
  /-- START (R163). -/
  | start
  /-- RESET (R170). -/
  | reset
  /-- QUIESCE (R158). -/
  | quiesce
  /-- RESUME (R159). -/
  | resume
  /-- LOG_RESTART (R177). -/
  | logRestart
  /-- FORCE_CALL (R149). -/
  | forceCall (slot : Slot) (group entry : Byte)
  /-- FORCE_REBIND (R149). -/
  | forceRebind (slot : Slot)
  /-- CANCEL (R153). -/
  | cancel (slot : Slot)
  /-- SLOT_ENABLE (R156): a write of SLOT_ENABLE that sets one slot's bit. -/
  | slotEnable (slot : Slot)
  /-- SLOT_DISABLE (R155): a write of SLOT_ENABLE that clears one slot's bit. -/
  | slotDisable (slot : Slot)
  /-- RESPONSE_LIMIT_WRITE (R82). -/
  | responseLimitWrite (value : Word)
  /-- NOTICE_STATUS_CLEAR (R180). -/
  | noticeStatusClear (value : Word)
  /-- NOTICE_ENABLE_WRITE (R181). -/
  | noticeEnableWrite (value : Word)
  /-- NOTICE_THRESHOLD_WRITE (R181). -/
  | noticeThresholdWrite (value : Word)
  /-- LOG_DATA_READ (R177). -/
  | logDataRead (extent : ReadExtent)
  /-- SLOT_INFO_READ (R179), of word 0..3. -/
  | slotInfoRead (word : Fin 4)
  /-- REGISTER_WRITE (R175): a write frame of any register index. -/
  | registerWrite (index : BitVec 16) (value : Word)
  /-- BAD_COMMAND_BYTE (R173). -/
  | badCommandByte (byte : Byte)
  /-- RESET_INPUT (R170). -/
  | resetInput
  /-- RESET_INPUT_RELEASE (R170). -/
  | resetInputRelease
  /-- POWER_ON_RESET (R171).  `frame` is there when it is taken with chip select low in a frame that no
  other command has carried whole: the bytes of it that are complete and that no other command has
  carried, none of them when chip select has only gone low (log entry 23). -/
  | powerOnReset (frame : Option (List Byte) := none)
  /-- CHIP_SELECT_HIGH (R173), after these bytes of the frame that it ends: those that no other command
  has carried (log entry 23). -/
  | chipSelectHigh (bytes : List Byte := [])
  deriving DecidableEq, Repr

end Sys2Proof
end

