-- ==== Sys2Proof/Config.lean ====
section
/-! DEFINITION. What is fixed for the part (capacities and constants) and the free values: constants with no body, one for each point the manual leaves open. -/

namespace Sys2Proof.Config

/-- Free order (log entry 4): the place at which the `i`-th thing of an event's list is inserted, at
the event whose free-value count is `n`.  Nothing constrains it. -/
opaque freePlace : Nat → Nat → Nat

/-- Free byte (log entries 5 and 6): the `n`-th byte whose value the manual does not state. -/
opaque freeByte : Nat → Byte

/-- Free address (log entry 7): where a table read goes whose computed address `n` is 2^40 or more. -/
opaque overflowAddr : Nat → Addr

/-- Places of a slot's regular intake queue (R30). -/
def regularPlaces : Nat := 4

/-- Places of a slot's priority intake queue (R30). -/
def priorityPlaces : Nat := 2

/-- Entries of the outstanding table (2.6). -/
def outstandingEntries : Nat := 64

/-- Entries of the granule tracker (4.1). -/
def trackerEntries : Nat := 128

/-- Entries of the binding map (R111). -/
def mapEntries : Nat := 144

/-- Places of the fault log (R176). -/
def logPlaces : Nat := 32

/-- Entries of a slot's context stack (R106). -/
def stackDepth : Nat := 8

/-- Descriptors of one window list (R9). -/
def listLimit : Nat := 32

/-- Bytes of a page (00_scope, Numbers). -/
def pageBytes : Nat := 4096

/-- Bytes of the address space of every port (00_scope, Addresses). -/
def addrSpace : Nat := 2 ^ 40

/-- The largest value of the 32-bit counters of a binding (R8). -/
def counterMax : Nat := 4294967295

/-- IDENT (12.5): vendor code 5D1h, part code 412h, design revision 01h. -/
def ident : Word := 0x5D141201#32

end Sys2Proof.Config
end

