-- ==== Sys2Proof/Machine/State.lean ====
section
/-! DEFINITION. The state of the SK4120: every queue, table, register, timer and pin the manual names, the queue of commands, and the state after power-on reset. -/

namespace Sys2Proof.Machine

/-- A step of this block never faults: the manual names no condition that stops it (INVENTORY.md,
Faults), so the type has no constructor and nobody raises one. -/
inductive Fault where
  deriving DecidableEq, Repr

/-- Why a step has no meaning. -/
inductive Refusal where
  /-- A command that the model has not reached.  Raised only by an arm of exec that has no meaning
  yet, and no arm of this model is so.  Safe: the step stops where the hardware goes on. -/
  | notModelled (mnemonic : String)
  deriving DecidableEq, Repr

/-! ### Codes -/

/-- The five device states (R161). -/
inductive DeviceState where
  | direct | starting | running | quiescing | quiesced
  deriving DecidableEq, Repr

/-- The start result of STATE: NONE, DONE or the start code of a failed root record (R163, R164). -/
inductive StartResult where
  | none | done | rootRead | rootTag | directoryLength | regionBad
  deriving DecidableEq, Repr

/-- The nine slot states (R14). -/
inductive SlotState where
  | off | unbound | draining | binding | active | resolving | saving | loading | closing
  deriving DecidableEq, Repr

/-- The result codes of switches, binds and forces (12.6). -/
inductive ResultCode where
  | done | form | gateRange | gateEmpty | levelDenied | stackFull | stackEmpty | recordBusy
  | recordBad | windowBad | listTooLong | cacheFull | tableError | saveFailed | preempted
  | cancelled | notBound | slotOff
  deriving DecidableEq, Repr

/-- The last cancel answer (R153). -/
inductive CancelAnswer where
  | none | cancelled | tooLate
  deriving DecidableEq, Repr

/-- The status of a completion (R34). -/
inductive CompletionStatus where
  | ok | unmapped | denied | unsupported | partialDone | memoryError | aborted
  deriving DecidableEq, Repr

/-- The kinds of fault record (12.6). -/
inductive FaultKind where
  | unmapped | denied | tableGuard | lane | malformed | tagReuse | queueOverrun | slotOff
  | unboundSlot | memoryError | timeout | switchFault | bindFault | startFault | closeFault
  deriving DecidableEq, Repr

/-- The status byte of a management frame (R174). -/
inductive FrameStatus where
  | ok | badIndex | refused | busy
  deriving DecidableEq, Repr

/-! ### Windows and the window cache -/

/-- A window's level threshold (R11): a level it permits up to, or NEVER. -/
inductive Threshold where
  | upTo (l : Level)
  | never
  deriving DecidableEq, Repr

/-- A window's port (R11); `hole` is NONE. -/
inductive WindowPort where
  | hole | primary | aux
  deriving DecidableEq, Repr

/-- A window descriptor (1.3).  `pages` is its size in pages of 4 KiB. -/
structure Window where
  reqBase : Addr
  pages : Nat
  tgtBase : Addr
  port : WindowPort
  readThr : Threshold
  writeThr : Threshold
  watch : Bool
  priorityOk : Bool
  exempt : Bool
  deriving DecidableEq, Repr

/-- A window cache entry (R20). -/
inductive CacheEntry where
  | free
  | staged (slot : Slot) (pos : Nat) (w : Window)
  | committed (slot : Slot) (pos : Nat) (w : Window)
  deriving DecidableEq, Repr

/-! ### The slot table -/

/-- A committed binding (R15) without its window list, which the window cache holds. -/
structure Binding where
  record : Addr
  level : Level
  epochBudget : Nat
  remaining : Nat
  denials : Nat
  switchIns : Nat
  fill : Word
  keep : Bool
  deriving DecidableEq, Repr

/-- What made a switch record (R16). -/
inductive Origin where
  | mailbox | force | bind | enable
  deriving DecidableEq, Repr

/-- The kind of a switch (R16, R117); `undefined` carries a request word's kind code that names none. -/
inductive SwitchKind where
  | call | ret | reload | rebind | bind
  | undefined (code : Byte)
  deriving DecidableEq, Repr

/-- What memory made of the watched write's own granule (R119, R120). -/
inductive WatchOutcome where
  | pending | ok | failed
  deriving DecidableEq, Repr

/-- The group and entry numbers of a switch (R16). -/
structure GateRef where
  group : Byte
  entry : Byte
  deriving DecidableEq, Repr

/-- The mailbox of a captured request: its target address, the watched write's request address (R119). -/
structure MailboxRef where
  target : Addr
  request : Addr
  deriving DecidableEq, Repr

/-- The mailbox part of a preempted request (R16, R126). -/
structure Preempted where
  target : Addr
  seqTag : BitVec 16
  deriving DecidableEq, Repr

/-- The loaded record of a switch (R137): the header word as read, the list address, the saved
counts, and the extension fill pattern when the extension has been read. -/
structure Loaded where
  header : BitVec 64
  listAddr : Addr
  savedRemaining : Nat
  savedDenials : Nat
  savedSwitchIns : Nat
  extFill : Option Word
  deriving DecidableEq, Repr

/-- Where a load stands in its window list (R9, R138): the address of the run header read last or to
be read, the count of its run, and the number in the run of the descriptor being read. -/
structure ListCursor where
  header : Addr
  count : Nat
  index : Nat
  deriving DecidableEq, Repr

/-- A switch record (R16, R119, R137).  Its staged list is the slot's STAGED window cache entries. -/
structure SwitchRec where
  origin : Origin
  kind : SwitchKind
  gate : Option GateRef
  seqTag : Option (BitVec 16)
  mailbox : Option MailboxRef
  watch : Option WatchOutcome
  target : Option Addr
  level : Option Level
  transfer : Bool
  result : Option ResultCode
  preempted : Option Preempted
  loaded : Option Loaded
  cursor : Option ListCursor
  deriving DecidableEq, Repr

/-- A stack entry (R106). -/
structure StackEntry where
  record : Addr
  level : Level
  deriving DecidableEq, Repr

/-- A pending force (R17). -/
inductive PendingForce where
  | call (gate : GateRef)
  | rebind
  deriving DecidableEq, Repr

/-- A slot record (1.4) with the held mark of the slot's regular queue (R92).  The head of `stack`
is the top entry. -/
structure SlotRecord where
  state : SlotState
  binding : Option Binding
  switch : Option SwitchRec
  stack : List StackEntry
  pendingForce : Option PendingForce
  lastForce : Option ResultCode
  disableReq : Bool
  held : Bool
  deriving DecidableEq, Repr

/-! ### Requests in the device -/

/-- A slot's two intake queues, the head of each its oldest request (R31). -/
structure Intake where
  regular : List Request
  priority : List Request
  deriving DecidableEq, Repr

/-- A completion record (R34). -/
structure Completion where
  initiator : Slot
  tag : Tag
  status : CompletionStatus
  firstFailing : Option Nat
  data : Option (List Byte)
  deriving DecidableEq, Repr

/-- Why a granule is not issuable (R49, R50); TABLE_GUARD keeps the guarded target address (R63). -/
inductive DecodeFail where
  | unmapped | denied | lane
  | tableGuard (target : Addr)
  deriving DecidableEq, Repr

/-- The outcome decode gives a granule (R41, R50). -/
inductive GranuleOutcome where
  | issuable (target : Addr) (port : MemPort)
  | failed (why : DecodeFail)
  deriving DecidableEq, Repr

/-- A granule of an outstanding entry: its outcome at decode, and how it settled once it has. -/
structure OutGranule where
  outcome : GranuleOutcome
  settled : Option RespStatus
  deriving DecidableEq, Repr

/-- An outstanding entry (R41).  `granules` are those the request touches, from granule 0; `data` is
the read data, empty for a WRITE. -/
structure Outstanding where
  slot : Slot
  tag : Tag
  op : Op
  lane : Lane
  addr : Addr
  length : Nat
  granules : List OutGranule
  data : List Byte
  deriving DecidableEq, Repr

/-! ### Tracker, ports and TFU -/

/-- The identifier and issue time of an issued operation (R71, R77). -/
structure Flight where
  id : IssueId
  time : Nat
  deriving DecidableEq, Repr

/-- A tracker entry that holds a granule (R71): its granule work (R56), the mark of a captured
watched write (log entry 15), and its flight; no flight is WAITING, a flight is ISSUED.  The
outstanding entry of the work is the one of `slot` and `tag` (log entry 16). -/
structure TrackerEntry where
  slot : Slot
  tag : Tag
  granule : Nat
  op : Op
  lane : Lane
  port : MemPort
  target : Addr
  count : Nat
  mask : List Bool
  data : List Byte
  watched : Bool
  flight : Option Flight
  deriving DecidableEq, Repr

/-- The state of an issue identifier (R75). -/
inductive IdState where
  | free | inUse | retired
  deriving DecidableEq, Repr

/-- A port's identifier pool and the identifier it gave last (R75). -/
structure IdPool where
  ids : Vector IdState 256
  last : IssueId
  deriving DecidableEq, Repr

/-- The table operations (R132), and the root record read (R163). -/
inductive TableWhat where
  | rootRead | directoryRead | gateRead | savedWrite | recordRead | extensionRead | runHeaderRead
  | descriptorRead | headerWrite | resultWrite
  deriving DecidableEq, Repr

/-- A table operation: the slot that queued it (none for the start sequence), what it is, and the
parts of its issue (R74). -/
structure TableOp where
  owner : Option Slot
  what : TableWhat
  op : Op
  target : Addr
  length : Nat
  data : List Byte
  deriving DecidableEq, Repr

/-- The TFU's operation in flight (R77). -/
structure TfuFlight where
  operation : TableOp
  flight : Flight
  deriving DecidableEq, Repr

/-- The table fetch unit: its queue, head first, and its operation in flight (R77, R131; log entry 14). -/
structure Tfu where
  queue : List TableOp
  inFlight : Option TfuFlight
  deriving DecidableEq, Repr

/-- The sides of the primary port arbiter (R76). -/
inductive Side where
  | granule | table
  deriving DecidableEq, Repr

/-- An issue on a memory port (R74).  `origin` is none for the root record read. -/
structure Issue where
  id : IssueId
  op : Op
  target : Addr
  count : Nat
  mask : List Bool
  data : List Byte
  lane : Lane
  origin : Option Slot
  table : Bool
  deriving DecidableEq, Repr

/-! ### The binding map -/

/-- The role of a binding map entry (R111). -/
inductive MapRole where
  | active
  | stacked (depth : Nat)
  | reserved
  deriving DecidableEq, Repr

/-- A binding map entry (R111). -/
structure MapEntry where
  record : Addr
  slot : Slot
  role : MapRole
  deriving DecidableEq, Repr

/-! ### Start, timer, log and management unit -/

/-- The on-chip root copy (R166).  The epoch length of the timer (R94) is the one held here. -/
structure RootCopy where
  dirAddr : Addr
  dirLength : Nat
  epochLength : Nat
  fill : Word
  regionBase : Addr
  regionPages : Nat
  boot : Vector Addr 16
  deriving DecidableEq, Repr

/-- The reference timebase reading and the epoch timer's count and running state (R94), in µs. -/
structure Timer where
  now : Nat
  count : Nat
  running : Bool
  deriving DecidableEq, Repr

/-- The detail of a fault record (R122, R145, R165). -/
inductive Detail where
  | result (c : ResultCode)
  | start (c : StartResult)
  deriving DecidableEq, Repr

/-- A fault record (11.3). -/
structure FaultRecord where
  kind : FaultKind
  slot : Slot
  context : Option Addr
  request : Option Addr
  target : Option Addr
  detail : Option Detail
  deriving DecidableEq, Repr

/-- The fault log (R176) with the word counter (R177).  `dropped` says that a record was dropped
after byte 3 of the latest LOG_DATA read. -/
structure FaultLog where
  records : List FaultRecord
  overrun : Bool
  word : Fin 4
  dropped : Bool
  deriving DecidableEq, Repr

/-- The SPI receiver (R173): at the frame boundary; in a frame of which these bytes, 0 to 7, are
complete, with the value its byte 3 took (0 before it and in a write); past byte 8 with chip select
still low; or waiting for chip select to go high after a power-on reset taken in a frame. -/
inductive Receiver where
  | boundary
  | inFrame (bytes : List Byte) (value : Word)
  | complete
  | awaitDeselect
  deriving DecidableEq, Repr

/-- The management link: the receiver, and the value (bytes 4..7) and status byte the device drives in
the latest frame (log entry 13). -/
structure Link where
  receiver : Receiver
  value : Word
  status : Option FrameStatus
  deriving DecidableEq, Repr

/-- The four SLOT_INFO words of the last snapshot (R179). -/
structure Snapshot where
  word0 : Word
  word1 : Word
  word2 : Word
  word3 : Word
  deriving DecidableEq, Repr

/-- The management registers that hold a value of their own (R175).  Bits 0, 1 and 2 of `sticky` and
of `enables` are START_DONE, FORCE_DONE and QUIESCED; bit 3 of `enables` is LOG (12.5). -/
structure Mgmt where
  rootLow : Word
  rootHigh : BitVec 8
  slotEnable : BitVec 16
  responseLimit : BitVec 12
  slotSelect : Slot
  cancelAnswer : CancelAnswer
  cancelSlot : Slot
  snapshot : Snapshot
  sticky : BitVec 3
  enables : BitVec 4
  threshold : Nat
  deriving DecidableEq, Repr

/-! ### The whole -/

/-- The state of the block. -/
structure State where
  /-- The commands waiting, the next one first. -/
  pending : List Instr
  device : DeviceState
  startResult : StartResult
  root : Option RootCopy
  /-- The reset input is held active (R170). -/
  resetHeld : Bool
  timer : Timer
  intake : Vector Intake 16
  /-- Requests presented while the reset input is held (R45), the oldest first. -/
  presented : List Request
  /-- Completions formed and not yet sent (R35), the oldest first. -/
  completions : List Completion
  /-- The completion the U-port sent last (log entry 13). -/
  sent : Option Completion
  /-- The round-robin pointer (R36). -/
  pointer : Slot
  /-- The outstanding entries in use, in the order of their decodes (R41). -/
  outstanding : List Outstanding
  slots : Vector SlotRecord 16
  cache : Vector CacheEntry 256
  /-- The tracker entries in use, in the order in which they were taken (R71, R73). -/
  tracker : List TrackerEntry
  pPool : IdPool
  aPool : IdPool
  /-- The issue the P-port carried last (log entry 13). -/
  pOut : Option Issue
  /-- The issue the A-port carried last (log entry 13). -/
  aOut : Option Issue
  lastServed : Side
  tfu : Tfu
  map : List MapEntry
  log : FaultLog
  link : Link
  mgmt : Mgmt
  /-- The notice line NTC (R181). -/
  ntc : Bool
  /-- The free-value counter (log entry 4). -/
  freeCount : Nat
  deriving DecidableEq, Repr

/-! ### Reset values -/

/-- A slot record after a reset, in the slot state the reset gives it (R18). -/
def SlotRecord.fresh (st : SlotState) : SlotRecord :=
  { state := st, binding := none, switch := none, stack := [], pendingForce := none,
    lastForce := none, disableReq := false, held := false }

/-- An empty pair of intake queues (R31). -/
def Intake.empty : Intake := { regular := [], priority := [] }

/-- A pool after power-on reset (R88): every identifier FREE, the identifier given last 255. -/
def IdPool.fresh : IdPool := { ids := Vector.replicate 256 .free, last := 255#8 }

/-- The log after any reset (R176). -/
def FaultLog.empty : FaultLog := { records := [], overrun := false, word := 0, dropped := false }

/-- The snapshot after a reset (R179): slot 0 in state OFF (0) or UNBOUND (1) with no binding, last
force result NONE (FFh), all else 0. -/
def Snapshot.ofReset (enabled : Bool) : Snapshot :=
  { word0 := if enabled then 0x00FF0001#32 else 0x00FF0000#32, word1 := 0, word2 := 0, word3 := 0 }

/-- The management registers after power-on reset (R171, R175). -/
def Mgmt.fresh : Mgmt :=
  { rootLow := 0, rootHigh := 0, slotEnable := 0xFFFF#16, responseLimit := 1000#12, slotSelect := 0,
    cancelAnswer := .none, cancelSlot := 0, snapshot := Snapshot.ofReset true, sticky := 0,
    enables := 0, threshold := 1 }

/-- The state after power-on reset (R18, R46, R88, R94, R171, R175), with no command waiting.  The
values the manual does not give are those of log entries 3, 4, 11, 12 and 13. -/
def State.reset : State :=
  { pending := []
    device := .direct
    startResult := .none
    root := none
    resetHeld := false
    timer := { now := 0, count := 0, running := false }
    intake := Vector.replicate 16 Intake.empty
    presented := []
    completions := []
    sent := none
    pointer := 0
    outstanding := []
    slots := Vector.replicate 16 (SlotRecord.fresh .unbound)
    cache := Vector.replicate 256 .free
    tracker := []
    pPool := IdPool.fresh
    aPool := IdPool.fresh
    pOut := none
    aOut := none
    lastServed := .table
    tfu := { queue := [], inFlight := none }
    map := []
    log := FaultLog.empty
    link := { receiver := .boundary, value := 0, status := none }
    mgmt := Mgmt.fresh
    ntc := false
    freeCount := 0 }

end Sys2Proof.Machine
end

