-- ==== Sys2Proof/Machine/Operands.lean ====
section
/-! DEFINITION. Operand forms: granule geometry (R48), byte fields of memory records (12.3) and their checks, and the words the device writes to memory. -/

namespace Sys2Proof.Machine

/-! ### Bytes -/

/-- The number whose little-endian bytes these are (00_scope, Byte order and alignment). -/
def leNat : List Byte → Nat
  | [] => 0
  | b :: bs => b.toNat + 256 * leNat bs

/-- The `k` low bytes of a number, little-endian. -/
def leBytes : Nat → Nat → List Byte
  | 0, _ => []
  | k + 1, n => BitVec.ofNat 8 n :: leBytes k (n / 256)

/-- `n` items of a list from offset `off`. -/
def slice {α : Type} (l : List α) (off n : Nat) : List α :=
  (l.drop off).take n

/-- A list with the items from offset `off` replaced by `bytes`. -/
def setSlice {α : Type} (l : List α) (off : Nat) (bytes : List α) : List α :=
  l.take off ++ bytes ++ l.drop (off + bytes.length)

/-- A field of `size` bytes at an offset of a memory record. -/
def field (data : List Byte) (off size : Nat) : Nat :=
  leNat (slice data off size)

/-- One byte of a memory record. -/
def byteAt (data : List Byte) (off : Nat) : Byte :=
  BitVec.ofNat 8 (field data off 1)

/-- Bits 39..0 of an address field of a memory record; its higher bits are reserved (R184). -/
def addrField (data : List Byte) (off : Nat) : Addr :=
  BitVec.ofNat 40 (field data off 5)

/-- A 2-bit level field. -/
def levelOf (b : BitVec 2) : Level := b.toFin

/-! ### Table addresses -/

/-- The target address of a table operation computed as a number; past the 40-bit address space the
manual states none, and the address is free (log entry 7). -/
def tableAddr (n : Nat) : Addr :=
  if n < Config.addrSpace then BitVec.ofNat 40 n else Config.overflowAddr n

/-- An address rounded down to a multiple of `n` (R101, R183). -/
def alignDown (a : Addr) (n : Nat) : Nat :=
  a.toNat / n * n

/-- Whether an address is a multiple of `n`. -/
def alignedTo (a : Addr) (n : Nat) : Bool :=
  a.toNat % n == 0

/-- Whether 16 bytes at a computed address would cross a 4 KiB boundary (R138, R183). -/
def descriptorCrosses (n : Nat) : Bool :=
  decide (Config.pageBytes < n % Config.pageBytes + 16)

/-! ### Granules of a request (R48) -/

/-- The number of granules a request touches. -/
def granuleCount (addr : Addr) (length : Nat) : Nat :=
  (addr.toNat % 64 + length + 63) / 64

/-- The first request byte in granule `j`. -/
def firstByte (addr : Addr) (j : Nat) : Nat :=
  if j = 0 then addr.toNat else (addr.toNat / 64 + j) * 64

/-- The offset of granule `j`'s first byte in the request. -/
def granuleOffset (addr : Addr) (j : Nat) : Nat :=
  firstByte addr j - addr.toNat

/-- The number of request bytes in granule `j`. -/
def granuleBytes (addr : Addr) (length j : Nat) : Nat :=
  min (length - granuleOffset addr j) (64 - firstByte addr j % 64)

/-- The start address of granule `j`, a multiple of 64. -/
def granuleStart (addr : Addr) (j : Nat) : Nat :=
  (addr.toNat / 64 + j) * 64

/-- A granule's outcome is issuable (R50). -/
def GranuleOutcome.isIssuable (o : GranuleOutcome) : Bool :=
  match o with
  | .issuable _ _ => true
  | .failed _ => false

/-- The form check (R27): a request is MALFORMED when its length is outside 1..256 or its first and
last bytes lie in different pages. -/
def malformed (r : Request) : Bool :=
  decide (r.length = 0) || decide (256 < r.length) ||
    decide (r.addr.toNat / Config.pageBytes ≠ (r.addr.toNat + r.length - 1) / Config.pageBytes)

/-- The byte of a fill pattern for a request address (R60). -/
def fillByte (fill : Word) (a : Nat) : Byte :=
  fill.extractLsb' (8 * (a % 4)) 8

/-- The fill data of a request (R60, R61). -/
def fillData (fill : Word) (addr : Addr) (length : Nat) : List Byte :=
  (List.range length).map fun k => fillByte fill (addr.toNat + k)

/-! ### The root record (12.3) -/

/-- The values kept of a root record (R166). -/
def parseRoot (data : List Byte) : RootCopy :=
  { dirAddr := addrField data 8
    dirLength := field data 2 1
    epochLength := field data 4 2
    fill := BitVec.ofNat 32 (field data 16 4)
    regionBase := addrField data 24
    regionPages := field data 20 4
    boot := Vector.ofFn fun i => addrField data (32 + 8 * i.val) }

/-- Check 3 of R164 fails. -/
def RootCopy.directoryBad (r : RootCopy) : Bool :=
  decide (r.dirLength = 0) || decide (64 < r.dirLength) ||
    decide (Config.addrSpace < alignDown r.dirAddr 8 + 8 * r.dirLength)

/-- Check 4 of R164 fails. -/
def RootCopy.regionBad (r : RootCopy) : Bool :=
  decide (r.regionPages ≠ 0) &&
    (!alignedTo r.regionBase Config.pageBytes ||
      decide (Config.addrSpace < r.regionBase.toNat + r.regionPages * Config.pageBytes))

/-- The start code of a root record that was read, DONE when it passes checks 2 to 4 of R164. -/
def rootCheck (data : List Byte) : StartResult :=
  if field data 0 2 ≠ 0x52A7 then .rootTag
  else if (parseRoot data).directoryBad then .directoryLength
  else if (parseRoot data).regionBad then .regionBad
  else .done

/-! ### The context record (12.3) -/

/-- The loaded record of a context record as read (R137). -/
def parseRecord (data : List Byte) : Loaded :=
  { header := BitVec.ofNat 64 (field data 0 8)
    listAddr := addrField data 8
    savedRemaining := field data 16 3
    savedDenials := field data 20 4
    savedSwitchIns := field data 24 4
    extFill := none }

/-- The format tag of a header word. -/
def Loaded.formatTag (l : Loaded) : BitVec 16 := l.header.extractLsb' 0 16

/-- The FRESH flag of a header word. -/
def Loaded.fresh (l : Loaded) : Bool := l.header.getLsbD 16

/-- The KEEP flag of a header word. -/
def Loaded.keep (l : Loaded) : Bool := l.header.getLsbD 17

/-- The EXT flag of a header word. -/
def Loaded.ext (l : Loaded) : Bool := l.header.getLsbD 18

/-- The initial level of a header word. -/
def Loaded.initialLevel (l : Loaded) : Level := levelOf (l.header.extractLsb' 20 2)

/-- The epoch budget of a header word. -/
def Loaded.epochBudget (l : Loaded) : Nat := (l.header.extractLsb' 32 24).toNat

/-- The header word with FRESH clear (R2, R184). -/
def Loaded.headerCleared (l : Loaded) : BitVec 64 := l.header &&& ~~~(1#64 <<< 16)

/-- The checks of a record that was read (R137): the tag and the window list address. -/
def Loaded.bad (l : Loaded) : Bool :=
  l.formatTag != 0xC7A1#16 || !alignedTo l.listAddr 8

/-- The fill pattern of an extension (12.3). -/
def parseExtension (data : List Byte) : Word := BitVec.ofNat 32 (field data 0 4)

/-! ### Window lists (12.3) -/

/-- A threshold code: 0..3 name a level, any other is NEVER (R11, R184). -/
def thresholdOf (code : BitVec 3) : Threshold :=
  if code.toNat < 4 then .upTo (levelOf (code.extractLsb' 0 2)) else .never

/-- A port code; 3 names none (R184). -/
def portOf (code : BitVec 2) : Option WindowPort :=
  match code.toNat with
  | 0 => some .hole
  | 1 => some .primary
  | 2 => some .aux
  | _ => none

/-- A descriptor's fields before its checks, when its port code names a port. -/
def readWindow (data : List Byte) : Option Window :=
  (portOf ((byteAt data 6).extractLsb' 0 2)).map fun p =>
    { reqBase := addrField data 0
      pages := field data 13 3
      tgtBase := addrField data 8
      port := p
      readThr := thresholdOf ((byteAt data 5).extractLsb' 0 3)
      writeThr := thresholdOf ((byteAt data 5).extractLsb' 4 3)
      watch := (byteAt data 6).getLsbD 4
      priorityOk := (byteAt data 6).getLsbD 5
      exempt := (byteAt data 6).getLsbD 6 }

/-- The checks of R12 on a descriptor with a port. -/
def Window.ok (w : Window) : Bool :=
  decide (1 ≤ w.pages) && decide (w.pages ≤ 1048576) &&
    alignedTo w.reqBase Config.pageBytes && alignedTo w.tgtBase Config.pageBytes &&
    decide (w.reqBase.toNat + w.pages * Config.pageBytes ≤ Config.addrSpace) &&
    decide (w.tgtBase.toNat + w.pages * Config.pageBytes ≤ Config.addrSpace) &&
    (!w.watch || decide (w.port = .primary))

/-- The descriptor that was read, none when it is WINDOW_BAD (R12). -/
def parseWindow (data : List Byte) : Option Window :=
  match readWindow data with
  | none => none
  | some w => if w.ok then some w else none

/-- A window covers the request addresses from its base up to base plus size (R11). -/
def Window.covers (w : Window) (a : Nat) : Bool :=
  decide (w.reqBase.toNat ≤ a) && decide (a < w.reqBase.toNat + w.pages * Config.pageBytes)

/-- The target address of a request address through a window (R55). -/
def Window.translate (w : Window) (a : Nat) : Addr :=
  BitVec.ofNat 40 (w.tgtBase.toNat + (a - w.reqBase.toNat))

/-- A level is permitted by a threshold (R11, R53). -/
def Threshold.permits (t : Threshold) (l : Level) : Bool :=
  match t with
  | .upTo m => decide (l ≤ m)
  | .never => false

/-! ### Gate tables (12.3) -/

/-- A directory entry as read. -/
structure DirEntry where
  listAddr : Addr
  length : Nat
  deriving DecidableEq, Repr

/-- The directory entry of 8 bytes read. -/
def parseDirEntry (data : List Byte) : DirEntry :=
  { listAddr := addrField data 0, length := field data 5 1 }

/-- The check of step 3 of R102 fails, by R103. -/
def DirEntry.outOfRange (d : DirEntry) (entry : Byte) : Bool :=
  decide (d.length = 0) || decide (128 < d.length) || !alignedTo d.listAddr 16 ||
    decide (Config.addrSpace < d.listAddr.toNat + 16 * d.length) ||
    decide (d.length ≤ entry.toNat)

/-- A gate entry as read. -/
structure GateEntry where
  valid : Bool
  transfer : Bool
  ceiling : Level
  entryLevel : Level
  target : Addr
  deriving DecidableEq, Repr

/-- The gate entry of 16 bytes read. -/
def parseGate (data : List Byte) : GateEntry :=
  { valid := (byteAt data 0).getLsbD 0
    transfer := (byteAt data 0).getLsbD 1
    ceiling := levelOf ((byteAt data 1).extractLsb' 0 2)
    entryLevel := levelOf ((byteAt data 1).extractLsb' 4 2)
    target := addrField data 8 }

/-! ### Mailbox words (12.3) -/

/-- The kind of a request word's kind code (R117, R184). -/
def mailboxKind (code : Byte) : SwitchKind :=
  match code.toNat with
  | 1 => .call
  | 2 => .ret
  | 3 => .reload
  | _ => .undefined code

/-- The code of a result (12.6). -/
def ResultCode.code (c : ResultCode) : Byte :=
  match c with
  | .done => 0x00 | .form => 0x01 | .gateRange => 0x02 | .gateEmpty => 0x03
  | .levelDenied => 0x04 | .stackFull => 0x05 | .stackEmpty => 0x06 | .recordBusy => 0x07
  | .recordBad => 0x08 | .windowBad => 0x09 | .listTooLong => 0x0A | .cacheFull => 0x0B
  | .tableError => 0x0C | .saveFailed => 0x0D | .preempted => 0x0E | .cancelled => 0x0F
  | .notBound => 0x10 | .slotOff => 0x11

/-- The eight bytes of a result word (R118, 12.3). -/
def resultWord (c : ResultCode) (depth : Nat) (slot : Slot) (seqTag : BitVec 16) : List Byte :=
  [c.code, BitVec.ofNat 8 depth, BitVec.ofNat 8 slot.val, 0] ++ leBytes 2 seqTag.toNat ++ [0, 0]

/-- The sixteen bytes of the saved area (R134, R184): remaining budget, a zero byte, denial count,
switch-in count, four zero bytes. -/
def savedArea (b : Binding) : List Byte :=
  leBytes 3 b.remaining ++ [0] ++ leBytes 4 b.denials ++ leBytes 4 b.switchIns ++ [0, 0, 0, 0]

end Sys2Proof.Machine
end

