-- ==== Sys2Proof/Machine/Flags.lean ====
section
/-! DEFINITION. Flag and register views: the notice line (R181), code values (12.6), fault log words (12.4), the SLOT_INFO snapshot (R179) and the value of every register read (R175). -/

namespace Sys2Proof.Machine

/-! ### Code values (12.6) -/

/-- The code of a device state. -/
def DeviceState.code (d : DeviceState) : BitVec 3 :=
  match d with
  | .direct => 0 | .starting => 1 | .running => 2 | .quiescing => 3 | .quiesced => 4

/-- The code of a slot state. -/
def SlotState.code (s : SlotState) : BitVec 4 :=
  match s with
  | .off => 0 | .unbound => 1 | .draining => 2 | .binding => 3 | .active => 4
  | .resolving => 5 | .saving => 6 | .loading => 7 | .closing => 8

/-- The code of a start result. -/
def StartResult.code (r : StartResult) : BitVec 3 :=
  match r with
  | .none => 0 | .done => 1 | .rootRead => 2 | .rootTag => 3 | .directoryLength => 4
  | .regionBad => 5

/-- The code of a fault kind. -/
def FaultKind.code (k : FaultKind) : BitVec 4 :=
  match k with
  | .unmapped => 1 | .denied => 2 | .tableGuard => 3 | .lane => 4 | .malformed => 5
  | .tagReuse => 6 | .queueOverrun => 7 | .slotOff => 8 | .unboundSlot => 9
  | .memoryError => 10 | .timeout => 11 | .switchFault => 12 | .bindFault => 13
  | .startFault => 14 | .closeFault => 15

/-- The code of a last force result, NONE FFh. -/
def lastForceCode (r : Option ResultCode) : Byte :=
  match r with
  | none => 0xFF
  | some c => c.code

/-- The code of a last cancel answer. -/
def CancelAnswer.code (a : CancelAnswer) : Byte :=
  match a with
  | .none => 0xFF
  | .cancelled => ResultCode.cancelled.code
  | .tooLate => 0x12

/-- The code of a fault record's detail (12.6). -/
def Detail.code (d : Detail) : Byte :=
  match d with
  | .result c => c.code
  | .start c => c.code.setWidth 8

/-- The code of a completion status. -/
def CompletionStatus.code (c : CompletionStatus) : BitVec 3 :=
  match c with
  | .ok => 0 | .unmapped => 1 | .denied => 2 | .unsupported => 3 | .partialDone => 4
  | .memoryError => 5 | .aborted => 6

/-- The code of a frame's status byte (12.5). -/
def FrameStatus.code (f : FrameStatus) : Byte :=
  match f with
  | .ok => 0 | .badIndex => 1 | .refused => 2 | .busy => 3

/-- The code of an op. -/
def opCode (o : Op) : BitVec 1 :=
  match o with
  | .read => 0 | .write => 1

/-- The code of a lane. -/
def laneCode (l : Lane) : BitVec 1 :=
  match l with
  | .regular => 0 | .priority => 1

/-- The code of a window's port. -/
def WindowPort.code (p : WindowPort) : BitVec 2 :=
  match p with
  | .hole => 0 | .primary => 1 | .aux => 2

/-! ### The notice line -/

/-- The LOG bit of NOTICE_STATUS (R180): the log count is at least the threshold. -/
def State.logLevel (s : State) : Bool :=
  decide (s.mgmt.threshold ≤ s.log.records.length)

/-- The notice line's condition (R181). -/
def State.noticeLine (s : State) : Bool :=
  (s.mgmt.sticky &&& s.mgmt.enables.extractLsb' 0 3 != 0#3) ||
    (s.mgmt.enables.getLsbD 3 && s.logLevel)

/-- NTC driven to its condition, at the end of an event (R181). -/
def State.latchNotice (s : State) : State :=
  { s with ntc := s.noticeLine }

/-! ### Fault log words (12.4) -/

/-- A record field's address, 0 when absent (R176). -/
def addrOrZero (a : Option Addr) : Addr := a.getD 0

/-- The presence marks, bits 11..8 of word 0. -/
def FaultRecord.marks (f : FaultRecord) : BitVec 4 :=
  BitVec.ofBool f.detail.isSome ++ BitVec.ofBool f.target.isSome ++
    BitVec.ofBool f.request.isSome ++ BitVec.ofBool f.context.isSome

/-- Bits 31..22 of word 2: target address bits 9..0, or the detail code in bits 29..22. -/
def FaultRecord.sharedBits (f : FaultRecord) : BitVec 10 :=
  match f.target, f.detail with
  | some t, _ => t.extractLsb' 0 10
  | none, some d => d.code.setWidth 10
  | none, none => 0

/-- A word of a fault record, with the OVERRUN mark of the fourth. -/
def FaultRecord.word (f : FaultRecord) (overrun : Bool) (n : Fin 4) : Word :=
  match n with
  | 0 => (addrOrZero f.context).extractLsb' 6 20 ++ f.marks ++ BitVec.ofFin (w := 4) f.slot ++ f.kind.code
  | 1 => (addrOrZero f.request).extractLsb' 0 18 ++ (addrOrZero f.context).extractLsb' 26 14
  | 2 => f.sharedBits ++ (addrOrZero f.request).extractLsb' 18 22
  | 3 => BitVec.ofBool overrun ++ 0#1 ++ (addrOrZero f.target).extractLsb' 10 30

/-- The word LOG_DATA returns (R177): the word of the oldest record that the counter names, zeros
when the log is empty. -/
def FaultLog.nextWord (l : FaultLog) : Word :=
  match l.records with
  | [] => 0
  | f :: _ => f.word l.overrun l.word

/-! ### SLOT_INFO (R179, 12.5) -/

/-- The four words of a slot record. -/
def SlotRecord.snapshot (r : SlotRecord) : Snapshot :=
  { word0 := 0#8 ++ lastForceCode r.lastForce ++ 0#4 ++ BitVec.ofNat 4 r.stack.length ++ 0#1 ++
      (match r.binding with
        | some b => (BitVec.ofFin (w := 2) b.level)
        | none => 0#2) ++
      BitVec.ofBool r.binding.isSome ++ r.state.code
    word1 := match r.binding with
      | some b => b.record.extractLsb' 0 32
      | none => 0
    word2 := match r.binding with
      | some b => BitVec.ofNat 24 b.remaining ++ b.record.extractLsb' 32 8
      | none => 0
    word3 := match r.binding with
      | some b => BitVec.ofNat 32 b.denials
      | none => 0 }

/-- A word of a snapshot. -/
def Snapshot.word (p : Snapshot) (n : Fin 4) : Word :=
  match n with
  | 0 => p.word0
  | 1 => p.word1
  | 2 => p.word2
  | 3 => p.word3

/-- The slot record that a read of SLOT_INFO word 0 shows. -/
def State.selectedSnapshot (s : State) : Snapshot :=
  s.slots[s.mgmt.slotSelect].snapshot

/-! ### Register reads (R175, 12.5) -/

/-- The STATE register. -/
def State.stateWord (s : State) : Word :=
  0#21 ++ s.startResult.code ++ 0#5 ++ s.device.code

/-- The LOG_COUNT register (R178). -/
def State.logCountWord (s : State) : Word :=
  0#14 ++ BitVec.ofFin (w := 2) s.log.word ++ 0#7 ++ BitVec.ofBool s.log.overrun ++ 0#2 ++
    BitVec.ofNat 6 s.log.records.length

/-- The CANCEL register (R153). -/
def State.cancelWord (s : State) : Word :=
  0#16 ++ s.mgmt.cancelAnswer.code ++ 0#4 ++ BitVec.ofFin (w := 4) s.mgmt.cancelSlot

/-- The NOTICE_STATUS register (R180). -/
def State.noticeWord (s : State) : Word :=
  0#28 ++ BitVec.ofBool s.logLevel ++ s.mgmt.sticky

/-- The value byte 3 of a read frame takes for a register index, none where the index names no
register (R173, R174, R175).  A read of SLOT_INFO word 0 returns the snapshot it takes (R179). -/
def State.readRegister (s : State) (index : BitVec 16) : Option Word :=
  match index.toNat with
  | 0x00 => some Config.ident
  | 0x01 => some s.stateWord
  | 0x02 => some s.mgmt.rootLow
  | 0x03 => some (s.mgmt.rootHigh.setWidth 32)
  | 0x04 => some 0
  | 0x05 => some (s.mgmt.slotEnable.setWidth 32)
  | 0x06 => some (s.mgmt.responseLimit.setWidth 32)
  | 0x07 => some 0
  | 0x08 => some s.cancelWord
  | 0x09 => some (BitVec.ofNat 32 s.mgmt.slotSelect.val)
  | 0x0A => some s.selectedSnapshot.word0
  | 0x0B => some s.mgmt.snapshot.word1
  | 0x0C => some s.mgmt.snapshot.word2
  | 0x0D => some s.mgmt.snapshot.word3
  | 0x0E => some s.logCountWord
  | 0x0F => some s.log.nextWord
  | 0x10 => some s.noticeWord
  | 0x11 => some (s.mgmt.enables.setWidth 32)
  | 0x12 => some (BitVec.ofNat 32 s.mgmt.threshold)
  | _ => none

end Sys2Proof.Machine
end

