-- ==== Sys2Proof/Machine/Ops.lean ====
section
/-! DEFINITION. The named operations over the state: slots, queues, completions, fault log, notice bits, window cache, binding map, TFU queue, identifier pools and free values. -/

namespace Sys2Proof.Machine

/-- The answer of a meaning: the state at the end of the event, NTC driven (R181). -/
def finish (s : State) : Host.Outcome State Fault Refusal :=
  .next s.latchNotice

/-! ### Slots and their queues -/

/-- A slot's record. -/
def State.slot (s : State) (i : Slot) : SlotRecord := s.slots[i]

/-- A slot's record replaced. -/
def State.setSlot (s : State) (i : Slot) (r : SlotRecord) : State :=
  { s with slots := s.slots.set i r }

/-- A slot's intake queues. -/
def State.queues (s : State) (i : Slot) : Intake := s.intake[i]

/-- A slot's intake queues replaced. -/
def State.setQueues (s : State) (i : Slot) (q : Intake) : State :=
  { s with intake := s.intake.set i q }

/-- A slot put into a slot state. -/
def State.setSlotState (s : State) (i : Slot) (st : SlotState) : State :=
  s.setSlot i { s.slot i with state := st }

/-- A slot's switch record replaced. -/
def State.setSwitch (s : State) (i : Slot) (sw : Option SwitchRec) : State :=
  s.setSlot i { s.slot i with switch := sw }

/-- The requests of both queues in the order in which they are answered (R32, R43, R45). -/
def Intake.all (q : Intake) : List Request := q.priority ++ q.regular

/-- All slots, from 0 to 15. -/
def allSlots : List Slot := List.finRange 16

/-- The slot states in which a switch runs (R155). -/
def SlotState.inSwitch (st : SlotState) : Bool :=
  match st with
  | .draining | .binding | .resolving | .saving | .loading | .closing => true
  | .off | .unbound | .active => false

/-- The device states in which an UNBOUND slot is refused and answered (R29, R32). -/
def DeviceState.guards (d : DeviceState) : Bool :=
  match d with
  | .running | .quiescing | .quiesced => true
  | .direct | .starting => false

/-! ### Fault log -/

/-- A record handed to the fault log (R176): it joins at the tail, or is dropped and OVERRUN is set. -/
def FaultLog.join (l : FaultLog) (f : FaultRecord) : FaultLog :=
  if l.records.length < Config.logPlaces then { l with records := l.records ++ [f] }
  else { l with overrun := true, dropped := true }

/-- The fault log of the state with a record handed to it. -/
def State.logFault (s : State) (f : FaultRecord) : State :=
  { s with log := s.log.join f }

/-- The context record address of a fault record of a slot (R33, R83, R125): that of its committed
binding, absent in DIRECT and for a slot with none. -/
def State.contextOf (s : State) (i : Slot) : Option Addr :=
  if s.device = .direct then none else (s.slot i).binding.map (·.record)

/-! ### Completions and queue answers -/

/-- A completion formed (R35): it joins those to be sent. -/
def State.form (s : State) (c : Completion) : State :=
  { s with completions := s.completions ++ [c] }

/-- The read data of a completion whose bytes are all 00h, present for a READ (R34). -/
def zeroData (op : Op) (length : Nat) : Option (List Byte) :=
  match op with
  | .read => some (List.replicate length 0)
  | .write => none

/-- The completion of a request that is refused, answered from its queue, or aborted (R34). -/
def answerOf (r : Request) (st : CompletionStatus) : Completion :=
  { initiator := r.initiator, tag := r.tag, status := st, firstFailing := some 0,
    data := zeroData r.op r.length }

/-- The fault record of a refusal or queue answer (R33). -/
def intakeFault (r : Request) (k : FaultKind) (ctx : Option Addr) : FaultRecord :=
  { kind := k, slot := r.initiator, context := ctx, request := some r.addr, target := none,
    detail := none }

/-- One queued request of an UNBOUND slot answered (R32). -/
def answerUnbound (s : State) (r : Request) : State :=
  (s.form (answerOf r .unsupported)).logFault (intakeFault r .unboundSlot none)

/-- Every queued request of a slot that is UNBOUND answered UNSUPPORTED with an UNBOUND_SLOT record,
priority queue first (R32). -/
def State.answerUnboundQueues (s : State) (i : Slot) : State :=
  ((s.queues i).all.foldl answerUnbound s).setQueues i Intake.empty

/-- Every queued request of a disabled slot answered UNSUPPORTED, with no fault record (R43). -/
def State.answerDisabledQueues (s : State) (i : Slot) : State :=
  ((s.queues i).all.foldl (fun s r => s.form (answerOf r .unsupported)) s).setQueues i Intake.empty

/-! ### Notice bits and forces -/

/-- START_DONE, FORCE_DONE and QUIESCED in NOTICE_STATUS (12.5). -/
def startDoneBit : BitVec 3 := 1#3
def forceDoneBit : BitVec 3 := 2#3
def quiescedBit : BitVec 3 := 4#3

/-- A sticky bit of NOTICE_STATUS set (R180). -/
def State.setSticky (s : State) (b : BitVec 3) : State :=
  { s with mgmt := { s.mgmt with sticky := s.mgmt.sticky ||| b } }

/-- A force of the slot ends (R152): its last force result, and FORCE_DONE. -/
def State.endForce (s : State) (i : Slot) (c : ResultCode) : State :=
  (s.setSlot i { s.slot i with lastForce := some c }).setSticky forceDoneBit

/-! ### Window cache (R20 to R23) -/

/-- An entry of a slot's committed list. -/
def CacheEntry.isCommitted (e : CacheEntry) (i : Slot) : Bool :=
  match e with
  | .committed j _ _ => decide (j = i)
  | .staged _ _ _ => false
  | .free => false

/-- An entry of a slot's staged list. -/
def CacheEntry.isStaged (e : CacheEntry) (i : Slot) : Bool :=
  match e with
  | .staged j _ _ => decide (j = i)
  | .committed _ _ _ => false
  | .free => false

/-- A STAGED entry of the slot made COMMITTED at its position; any other entry unchanged. -/
def CacheEntry.toCommitted (e : CacheEntry) (i : Slot) : CacheEntry :=
  match e with
  | .staged j p w => if j = i then .committed j p w else .staged j p w
  | .committed j p w => .committed j p w
  | .free => .free

/-- The list position of an entry (R20). -/
def CacheEntry.position (e : CacheEntry) : Option Nat :=
  match e with
  | .staged _ p _ => some p
  | .committed _ p _ => some p
  | .free => none

/-- The descriptor of an entry (R20). -/
def CacheEntry.window (e : CacheEntry) : Option Window :=
  match e with
  | .staged _ _ w => some w
  | .committed _ _ w => some w
  | .free => none

/-- Every STAGED entry of the slot released (R23). -/
def State.freeStaged (s : State) (i : Slot) : State :=
  { s with cache := s.cache.map fun e => if e.isStaged i then .free else e }

/-- Every COMMITTED entry of the slot released (R23). -/
def State.freeCommitted (s : State) (i : Slot) : State :=
  { s with cache := s.cache.map fun e => if e.isCommitted i then .free else e }

/-- The window cache's part of a commit (R22), in one step. -/
def State.commitCache (s : State) (i : Slot) : State :=
  { s with cache := s.cache.map fun e => if e.isCommitted i then .free else e.toCommitted i }

/-- A slot's committed list (R20): its COMMITTED windows in position order. -/
def State.committedList (s : State) (i : Slot) : List Window :=
  let own := s.cache.toList.filter (fun e => e.isCommitted i)
  (List.range Config.listLimit).filterMap fun p =>
    (own.find? fun e => decide (e.position = some p)).bind (·.window)

/-- The number of descriptors a slot has staged (R9, R138). -/
def State.stagedCount (s : State) (i : Slot) : Nat :=
  (s.cache.toList.filter (fun e => e.isStaged i)).length

/-- The lowest FREE entry (R21). -/
def State.lowestFree (s : State) : Option (Fin 256) :=
  (List.finRange 256).find? fun k => decide (s.cache[k] = .free)

/-- A descriptor staged at the slot's next list position in the lowest FREE entry, none when no entry
is FREE (R21). -/
def State.stage (s : State) (i : Slot) (w : Window) : Option State :=
  match s.lowestFree with
  | none => none
  | some k => some { s with cache := s.cache.set k (.staged i (s.stagedCount i) w) }

/-! ### Binding map (R111 to R116) -/

/-- A record address is in the map, in any role, for any slot. -/
def State.inMap (s : State) (a : Addr) : Bool :=
  s.map.any fun e => decide (e.record = a)

/-- A claim (R112): a RESERVED entry, or none when the address is present or the map is full. -/
def State.claim (s : State) (a : Addr) (i : Slot) : Option State :=
  if s.inMap a then none
  else if Config.mapEntries ≤ s.map.length then none
  else some { s with map := s.map ++ [{ record := a, slot := i, role := .reserved }] }

/-- Whether an entry is the slot's RESERVED one. -/
def MapEntry.isReserved (e : MapEntry) (i : Slot) : Bool :=
  decide (e.slot = i) && decide (e.role = .reserved)

/-- Whether an entry is the slot's ACTIVE one. -/
def MapEntry.isActive (e : MapEntry) (i : Slot) : Bool :=
  decide (e.slot = i) && decide (e.role = .active)

/-- The slot's RESERVED entry removed (R114). -/
def State.unreserve (s : State) (i : Slot) : State :=
  { s with map := s.map.filter fun e => !e.isReserved i }

/-- The slot's ACTIVE and STACKED entries removed (R110, R116). -/
def State.dropEntries (s : State) (i : Slot) : State :=
  { s with map := s.map.filter fun e => !(decide (e.slot = i) && decide (e.role ≠ .reserved)) }

/-- The slot's RESERVED entry made ACTIVE (R115). -/
def MapEntry.activate (i : Slot) (e : MapEntry) : MapEntry :=
  if e.isReserved i then { e with role := .active } else e

/-- The slot's ACTIVE entry made STACKED at a depth (R107, R115). -/
def MapEntry.stackAt (i : Slot) (depth : Nat) (e : MapEntry) : MapEntry :=
  if e.isActive i then { e with role := .stacked depth } else e

/-- The slot's STACKED entry at a depth made ACTIVE (R109, R115). -/
def MapEntry.unstack (i : Slot) (depth : Nat) (e : MapEntry) : MapEntry :=
  if e.slot = i ∧ e.role = .stacked depth then { e with role := .active } else e

/-! ### Granule tracker views (R72) -/

/-- The number of tracker entries that hold a granule of the slot. -/
def State.trackerCount (s : State) (i : Slot) : Nat :=
  (s.tracker.filter fun e => decide (e.slot = i)).length

/-- The number of FREE tracker entries. -/
def State.trackerFree (s : State) : Nat :=
  Config.trackerEntries - s.tracker.length

/-! ### TFU (R77, R131) -/

/-- A table operation joins the TFU queue at the tail. -/
def State.queueTable (s : State) (o : TableOp) : State :=
  { s with tfu := { s.tfu with queue := s.tfu.queue ++ [o] } }

/-- A table read for a slot (R132). -/
def slotRead (i : Slot) (what : TableWhat) (target : Addr) (length : Nat) : TableOp :=
  { owner := some i, what := what, op := .read, target := target, length := length, data := [] }

/-- A table write for a slot (R132). -/
def slotWrite (i : Slot) (what : TableWhat) (target : Addr) (data : List Byte) : TableOp :=
  { owner := some i, what := what, op := .write, target := target, length := data.length,
    data := data }

/-- The TFU is idle (R77). -/
def Tfu.idle (t : Tfu) : Bool :=
  t.queue.isEmpty && t.inFlight.isNone

/-! ### Identifier pools (R75) -/

/-- The pool of a port. -/
def State.pool (s : State) (p : MemPort) : IdPool :=
  match p with
  | .primary => s.pPool
  | .aux => s.aPool

/-- The pool of a port replaced. -/
def State.setPool (s : State) (p : MemPort) (q : IdPool) : State :=
  match p with
  | .primary => { s with pPool := q }
  | .aux => { s with aPool := q }

/-- The state of an identifier. -/
def IdPool.get (q : IdPool) (id : IssueId) : IdState := q.ids[id.toFin]

/-- An identifier put into a state. -/
def IdPool.put (q : IdPool) (id : IssueId) (st : IdState) : IdPool :=
  { q with ids := q.ids.set id.toFin st }

/-- The next identifier of a pool (R75): the first FREE one in ascending order after the one given
last, wrapping from 255 to 0. -/
def IdPool.next (q : IdPool) : Option IssueId :=
  ((List.range 256).map fun k => q.last + 1 + BitVec.ofNat 8 k).find? fun id =>
    decide (q.get id = .free)

/-- An identifier given out: IN_USE, and the one given last. -/
def IdPool.give (q : IdPool) (id : IssueId) : IdPool :=
  { q.put id .inUse with last := id }

/-- Every IN_USE identifier made RETIRED (R87). -/
def IdPool.retireAll (q : IdPool) : IdPool :=
  { q with ids := q.ids.map fun st => if st = .inUse then .retired else st }

/-! ### Free values -/

/-- `x` inserted at place `n` of a list, at its end when the list is shorter. -/
def insertAt {α : Type} (x : α) (l : List α) (n : Nat) : List α :=
  match l with
  | [] => [x]
  | y :: ys =>
    match n with
    | 0 => x :: y :: ys
    | k + 1 => y :: insertAt x ys k

/-- A list in a free order (log entry 4): any order is possible, and a list of one thing is itself. -/
def freeOrder {α : Type} (n : Nat) (l : List α) : List α :=
  match l with
  | [] => []
  | x :: xs => insertAt x (freeOrder n xs) (Config.freePlace n xs.length)

/-- The free-value counter advanced. -/
def State.spendFree (s : State) (n : Nat) : State :=
  { s with freeCount := s.freeCount + n }

/-- `n` free bytes, the first of number `k`. -/
def freeBytes (k n : Nat) : List Byte :=
  (List.range n).map fun j => Config.freeByte (k + j)

/-- Response data for an operation of `n` bytes: its first `n` bytes, and a free byte for each byte
it does not carry (log entry 6). -/
def State.fitData (s : State) (data : List Byte) (n : Nat) : List Byte :=
  data.take n ++ freeBytes s.freeCount (n - data.length)

end Sys2Proof.Machine
end

