-- ==== Sys2Proof/Machine/Switch.lean ====
section
/-! DEFINITION. The switch engine (chapters 6, 7, 8 and the taking of forces of chapter 9): draining, resolving, saving, loading, binding, commit, failure, closing and the end of a switch, as operations on the state for one slot. -/

namespace Sys2Proof.Machine

/-! ### Switch records -/

/-- A switch record at its making (R16): origin and kind, nothing else yet. -/
def SwitchRec.new (o : Origin) (k : SwitchKind) : SwitchRec :=
  { origin := o, kind := k, gate := none, seqTag := none, mailbox := none, watch := none,
    target := none, level := none, transfer := false, result := none, preempted := none,
    loaded := none, cursor := none }

/-- The kinds that claim their target record (R112). -/
def SwitchKind.claims (k : SwitchKind) : Bool :=
  match k with
  | .call | .rebind | .bind => true
  | .ret | .reload | .undefined _ => false

/-- The kinds whose failure leaves the slot UNBOUND, and whose level is the record's (R5, R144). -/
def SwitchKind.rebinds (k : SwitchKind) : Bool :=
  match k with
  | .rebind | .bind => true
  | .call | .ret | .reload | .undefined _ => false

/-- The kinds that save the outgoing context's counts (R3, R133). -/
def SwitchKind.saves (k : SwitchKind) : Bool :=
  match k with
  | .call | .ret => true
  | .reload | .rebind | .bind | .undefined _ => false

/-- The boot binding of a slot from the root copy, 0 for none (R166). -/
def State.bootOf (s : State) (i : Slot) : Addr :=
  match s.root with
  | some r => r.boot[i]
  | none => 0

/-! ### The end of a switch (R19, R144, R152) -/

/-- The completion of a slot disable (R19). -/
def completeDisable (s : State) (i : Slot) : State :=
  ((s.freeCommitted i).dropEntries i).setSlot i
    { s.slot i with binding := none, stack := [], disableReq := false, state := .off }

/-- A slot that has come to ACTIVE or UNBOUND: a requested disable completes (R19), and at UNBOUND a
pending force CALL ends with NOT_BOUND (R152). -/
def comeToRest (s : State) (i : Slot) : State :=
  if (s.slot i).disableReq then completeDisable s i
  else if (s.slot i).state = .unbound then
    match (s.slot i).pendingForce with
    | some (.call _) => (s.setSlot i { s.slot i with pendingForce := none }).endForce i .notBound
    | some .rebind => s
    | none => s
  else s

/-- The slot state a switch ends in, before a disable (R144). -/
def SwitchRec.endState (sw : SwitchRec) : SlotState :=
  if sw.result ≠ some .done ∧ sw.kind.rebinds = true then .unbound else .active

/-- The last force result and notice of a force's switch (R144, R152); other origins leave both. -/
def reportForce (s : State) (i : Slot) (sw : SwitchRec) : State :=
  if sw.origin = .force then
    match sw.result with
    | some c => s.endForce i c
    | none => s
  else s

/-- The end of a switch (R144).  A force's own result is reported before the slot comes to rest, so a
force CALL pending behind a REBIND that ends UNBOUND reports its NOT_BOUND last (R152, log entry 27). -/
def leaveSwitch (s : State) (i : Slot) (sw : SwitchRec) : State :=
  comeToRest
    (reportForce (s.setSlot i { s.slot i with state := sw.endState, switch := none }) i sw) i

/-! ### Closing (R143) -/

/-- The header write-back a switch makes in CLOSING (R2, R143): address and data. -/
def SwitchRec.headerWrite (sw : SwitchRec) : Option (Addr × List Byte) :=
  match sw.loaded, sw.target with
  | some l, some a =>
    if sw.result = some .done ∧ sw.kind ≠ .reload ∧ l.fresh = true then
      some (a, leBytes 8 l.headerCleared.toNat)
    else none
  | some _, none => none
  | none, _ => none

/-- The result write a switch makes in CLOSING (R123, R126): the mailbox's target address, the result
code and the sequence tag. -/
def SwitchRec.resultWrite (sw : SwitchRec) : Option (Addr × ResultCode × BitVec 16) :=
  match sw.preempted with
  | some p => some (p.target, .preempted, p.seqTag)
  | none =>
    match sw.origin, sw.mailbox, sw.result with
    | .mailbox, some m, some c => some (m.target, c, sw.seqTag.getD 0)
    | _, _, _ => none

/-- The result write of CLOSING is queued, or the switch ends when there is none (R143, R144).  The
stack depth is read here (R118). -/
def closeResult (s : State) (i : Slot) (sw : SwitchRec) : State :=
  match sw.resultWrite with
  | some (a, c, tag) =>
    (s.setSlotState i .closing).queueTable
      (slotWrite i .resultWrite (a + 8) (resultWord c (s.slot i).stack.length i tag))
  | none => leaveSwitch s i sw

/-- The way on from a commit or a failure (R142, R143): CLOSING with its first write, or the end. -/
def close (s : State) (i : Slot) (sw : SwitchRec) : State :=
  match sw.headerWrite with
  | some (a, data) =>
    (s.setSlotState i .closing).queueTable (slotWrite i .headerWrite a data)
  | none => closeResult s i sw

/-- The CLOSE record of a failed closing write (R125). -/
def closeFault (s : State) (i : Slot) : FaultRecord :=
  { kind := .closeFault, slot := i, context := (s.slot i).binding.map (·.record), request := none,
    target := none, detail := none }

/-! ### Failure (R142, R145) -/

/-- The SWITCH or BIND record of a failed switch (R122, R145). -/
def failureFault (s : State) (i : Slot) (sw : SwitchRec) (c : ResultCode) : FaultRecord :=
  match sw.origin with
  | .mailbox =>
    { kind := .switchFault, slot := i, context := (s.slot i).binding.map (·.record),
      request := sw.mailbox.map (·.request), target := none, detail := some (.result c) }
  | .force =>
    { kind := .switchFault, slot := i, context := (s.slot i).binding.map (·.record),
      request := none, target := none, detail := some (.result c) }
  | .bind | .enable =>
    { kind := .bindFault, slot := i, context := none, request := none, target := none,
      detail := some (.result c) }

/-- A switch fails with a code (R142). -/
def failSwitch (s : State) (i : Slot) (c : ResultCode) : State :=
  match (s.slot i).switch with
  | none => s
  | some sw =>
    close
      ((((s.freeStaged i).unreserve i).setSwitch i (some { sw with result := some c })).logFault
        (failureFault s i sw c)) i { sw with result := some c }

/-! ### Commit (R140, R141) -/

/-- The counts of a new binding by FRESH and KEEP as loaded (R7): remaining budget, denial count,
switch-in count. -/
def Loaded.counts (l : Loaded) : Nat × Nat × Nat :=
  if l.fresh = false ∧ l.keep = true then
    (min l.savedRemaining l.epochBudget, l.savedDenials,
      min (l.savedSwitchIns + 1) Config.counterMax)
  else (l.epochBudget, 0, 1)

/-- The fill pattern of a new binding (R4): the extension's, or the global one. -/
def State.fillOf (s : State) (l : Loaded) : Word :=
  if l.ext then l.extFill.getD 0
  else
    match s.root with
    | some r => r.fill
    | none => 0

/-- The level of a new binding (R5). -/
def SwitchRec.newLevel (sw : SwitchRec) (l : Loaded) : Level :=
  if sw.kind.rebinds then l.initialLevel else sw.level.getD 0

/-- The binding a commit sets (R141) for every kind but RELOAD. -/
def State.newBinding (s : State) (sw : SwitchRec) (l : Loaded) (a : Addr) : Binding :=
  { record := a
    level := sw.newLevel l
    epochBudget := l.epochBudget
    remaining := l.counts.1
    denials := l.counts.2.1
    switchIns := l.counts.2.2
    fill := s.fillOf l
    keep := l.keep }

/-- The stack after a commit (R107, R109). -/
def stackAfter (r : SlotRecord) (sw : SwitchRec) : List StackEntry :=
  match sw.kind with
  | .call =>
    if sw.transfer then r.stack
    else
      match r.binding with
      | some b => { record := b.record, level := b.level } :: r.stack
      | none => r.stack
  | .ret => r.stack.tail
  | .reload | .rebind | .bind | .undefined _ => r.stack

/-- The binding map after a commit (R115); `depth` is the stack depth before it. -/
def mapAfter (m : List MapEntry) (i : Slot) (sw : SwitchRec) (depth : Nat) : List MapEntry :=
  match sw.kind with
  | .call =>
    if sw.transfer then (m.filter fun e => !e.isActive i).map (MapEntry.activate i)
    else (m.map (MapEntry.stackAt i (depth + 1))).map (MapEntry.activate i)
  | .ret => (m.filter fun e => !e.isActive i).map (MapEntry.unstack i depth)
  | .rebind | .bind => m.map (MapEntry.activate i)
  | .reload | .undefined _ => m

/-- The commit of a switch (R140), in one event, and the way on to CLOSING or the end. -/
def commit (s : State) (i : Slot) (sw : SwitchRec) (l : Loaded) (a : Addr) : State :=
  let r := s.slot i
  let sw' := { sw with result := some .done }
  let b := if sw.kind = .reload then r.binding else some (s.newBinding sw l a)
  close
    ({ s.commitCache i with map := mapAfter s.map i sw r.stack.length }.setSlot i
      { r with binding := b, stack := stackAfter r sw, held := false, switch := some sw' }) i sw'

/-! ### Loading (R136 to R138) -/

/-- The opening of LOADING or BINDING (R136): alignment, claim, and the record read. -/
def beginLoad (s : State) (i : Slot) (sw : SwitchRec) (a : Addr) : State :=
  let t := (s.setSlotState i (if sw.kind = .bind then .binding else .loading)).setSwitch i
    (some { sw with target := some a })
  if alignedTo a 64 = false then failSwitch t i .recordBad
  else if sw.kind.claims then
    match t.claim a i with
    | none => failSwitch t i .recordBusy
    | some u => u.queueTable (slotRead i .recordRead a 64)
  else t.queueTable (slotRead i .recordRead a 64)

/-- A run header read is queued (R138). -/
def readHeader (s : State) (i : Slot) (sw : SwitchRec) (n : Nat) : State :=
  (s.setSwitch i (some { sw with cursor := some { header := tableAddr n, count := 0, index := 0 } })).queueTable
    (slotRead i .runHeaderRead (tableAddr n) 8)

/-- A descriptor read is queued, or the load fails with WINDOW_BAD when the descriptor would cross a
4 KiB page (R138, R183). -/
def readDescriptor (s : State) (i : Slot) (sw : SwitchRec) (c : ListCursor) : State :=
  let t := s.setSwitch i (some { sw with cursor := some c })
  if descriptorCrosses (c.header.toNat + 8 + 16 * c.index) then failSwitch t i .windowBad
  else t.queueTable (slotRead i .descriptorRead (tableAddr (c.header.toNat + 8 + 16 * c.index)) 16)

/-- The settlement of the record read, OK (R137). -/
def recordLoaded (s : State) (i : Slot) (sw : SwitchRec) (a : Addr) (data : List Byte) : State :=
  let l := parseRecord data
  if l.bad then failSwitch s i .recordBad
  else if l.ext then
    (s.setSwitch i (some { sw with loaded := some l })).queueTable
      (slotRead i .extensionRead (tableAddr (a.toNat + 64)) 16)
  else readHeader s i { sw with loaded := some l } l.listAddr.toNat

/-- The settlement of the extension read, OK (R137). -/
def extensionLoaded (s : State) (i : Slot) (sw : SwitchRec) (l : Loaded) (data : List Byte) : State :=
  readHeader s i { sw with loaded := some { l with extFill := some (parseExtension data) } }
    l.listAddr.toNat

/-- The settlement of a run header read, OK (R138). -/
def headerLoaded (s : State) (i : Slot) (sw : SwitchRec) (l : Loaded) (a : Addr) (c : ListCursor)
    (data : List Byte) : State :=
  let n := field data 0 1
  if n = 0 then commit s i sw l a
  else if Config.listLimit < s.stagedCount i + n then failSwitch s i .listTooLong
  else readDescriptor s i sw { header := c.header, count := n, index := 0 }

/-- The settlement of a descriptor read, OK (R12, R21, R138). -/
def descriptorLoaded (s : State) (i : Slot) (sw : SwitchRec) (c : ListCursor) (data : List Byte) :
    State :=
  match parseWindow data with
  | none => failSwitch s i .windowBad
  | some w =>
    match s.stage i w with
    | none => failSwitch s i .cacheFull
    | some t =>
      if c.index + 1 < c.count then readDescriptor t i sw { c with index := c.index + 1 }
      else readHeader t i sw (c.header.toNat + 8 + 16 * c.count)

/-! ### Saving and resolving (R133, R134) -/

/-- The entry to SAVING: the saved-area write is queued with the counts as they stand (R134). -/
def beginSaving (s : State) (i : Slot) (b : Binding) : State :=
  (s.setSlotState i .saving).queueTable (slotWrite i .savedWrite (b.record + 16) (savedArea b))

/-- A resolution that succeeds (R133): SAVING when the kind saves and the binding keeps, else LOADING. -/
def resolved (s : State) (i : Slot) (sw : SwitchRec) (a : Addr) (l : Level) (transfer : Bool) : State :=
  let sw' := { sw with target := some a, level := some l, transfer := transfer }
  let t := s.setSwitch i (some sw')
  match (s.slot i).binding with
  | some b => if sw.kind.saves && b.keep then beginSaving t i b else beginLoad t i sw' a
  | none => beginLoad t i sw' a

/-- Step 1 of R102 and the directory entry read. -/
def resolveCall (s : State) (i : Slot) (r : RootCopy) (g : GateRef) : State :=
  if r.dirLength ≤ g.group.toNat then failSwitch s i .gateRange
  else s.queueTable
    (slotRead i .directoryRead (tableAddr (alignDown r.dirAddr 8 + 8 * g.group.toNat)) 8)

/-- The entry to RESOLVING (R133). -/
def resolve (s : State) (i : Slot) (sw : SwitchRec) : State :=
  let t := s.setSlotState i .resolving
  match sw.kind with
  | .call =>
    match s.root, sw.gate with
    | some r, some g => resolveCall t i r g
    | _, _ => t
  | .ret =>
    match (s.slot i).stack with
    | [] => failSwitch t i .stackEmpty
    | e :: _ => resolved t i sw e.record e.level false
  | .reload =>
    match (s.slot i).binding with
    | some b => resolved t i sw b.record b.level false
    | none => t
  | .undefined _ => failSwitch t i .form
  | .rebind | .bind => t

/-- The settlement of the directory entry read, OK: step 3 of R102 and the gate entry read. -/
def directoryLoaded (s : State) (i : Slot) (g : GateRef) (data : List Byte) : State :=
  let d := parseDirEntry data
  if d.outOfRange g.entry then failSwitch s i .gateRange
  else s.queueTable (slotRead i .gateRead (tableAddr (d.listAddr.toNat + 16 * g.entry.toNat)) 16)

/-- The caller ceiling keeps a binding out (step 6 of R102, R104); a force does not meet it. -/
def ceilingDenies (sw : SwitchRec) (b : Option Binding) (g : GateEntry) : Bool :=
  match sw.origin, b with
  | .mailbox, some b => decide (g.ceiling < b.level)
  | .mailbox, none => false
  | .force, _ => false
  | .bind, _ => false
  | .enable, _ => false

/-- The settlement of the gate entry read, OK: steps 5 to 7 of R102. -/
def gateLoaded (s : State) (i : Slot) (sw : SwitchRec) (data : List Byte) : State :=
  let g := parseGate data
  if g.valid = false then failSwitch s i .gateEmpty
  else if ceilingDenies sw (s.slot i).binding g then failSwitch s i .levelDenied
  else if g.transfer = false ∧ Config.stackDepth ≤ (s.slot i).stack.length then
    failSwitch s i .stackFull
  else resolved s i sw g.target g.entryLevel g.transfer

/-! ### Starts and drains (R121, R130, R135) -/

/-- The start of a REBIND or BIND (R135). -/
def startBind (s : State) (i : Slot) (sw : SwitchRec) : State :=
  let t := ((s.freeCommitted i).dropEntries i).setSlot i
    { s.slot i with binding := none, stack := [] }
  if s.bootOf i = 0 then failSwitch t i .notBound
  else beginLoad t i sw (s.bootOf i)

/-- A captured mailbox request dropped at the end of DRAINING (R121, R122). -/
def dropMailbox (s : State) (i : Slot) (sw : SwitchRec) : State :=
  comeToRest
    ((s.logFault (failureFault s i sw .tableError)).setSlot i
      { s.slot i with state := .active, switch := none }) i

/-- The way on at the end of DRAINING (R130). -/
def afterDraining (s : State) (i : Slot) (sw : SwitchRec) : State :=
  match sw.origin with
  | .mailbox =>
    match sw.watch with
    | some .ok => resolve s i sw
    | some .failed => dropMailbox s i sw
    | some .pending => s
    | none => s
  | .force =>
    match sw.kind with
    | .call => resolve s i sw
    | .rebind => startBind s i sw
    | .ret | .reload | .bind | .undefined _ => s
  | .enable => startBind (s.setSlotState i .binding) i sw
  | .bind => s

/-- DRAINING ends when the slot has no granule in the tracker (R72, R130). -/
def endDraining (s : State) (i : Slot) : State :=
  if (s.slot i).state = .draining ∧ s.trackerCount i = 0 then
    match (s.slot i).switch with
    | some sw => afterDraining s i sw
    | none => s
  else s

/-! ### The settlement of a slot's table operation -/

/-- The stage in which a table operation of a slot is made (R132). -/
def TableWhat.inStage (w : TableWhat) (st : SlotState) : Bool :=
  match w with
  | .rootRead => false
  | .directoryRead | .gateRead => decide (st = .resolving)
  | .savedWrite => decide (st = .saving)
  | .recordRead | .extensionRead | .runHeaderRead | .descriptorRead =>
    decide (st = .loading) || decide (st = .binding)
  | .headerWrite | .resultWrite => decide (st = .closing)

/-- The code of a saved-area write that fails: SAVE_FAILED for an ERROR response (R134), TABLE_ERROR for an
expiry of the response limit (R82, R84).  For the expiry R134 says SAVE_FAILED; the model follows R82 and R84
there (log entry 26). -/
def savedFailure (timedOut : Bool) : ResultCode :=
  if timedOut then .tableError else .saveFailed

/-- A table operation of a slot settles failed, by a response or by timeout (R82, R102, R134, R138,
R143). -/
def slotOpFailed (s : State) (i : Slot) (sw : SwitchRec) (w : TableWhat) (timedOut : Bool) : State :=
  match w with
  | .rootRead => s
  | .directoryRead | .gateRead | .recordRead | .extensionRead | .runHeaderRead | .descriptorRead =>
    failSwitch s i .tableError
  | .savedWrite => failSwitch s i (savedFailure timedOut)
  | .headerWrite => closeResult (s.logFault (closeFault s i)) i sw
  | .resultWrite => leaveSwitch (s.logFault (closeFault s i)) i sw

/-- A table operation of a slot settles OK with its data. -/
def slotOpOk (s : State) (i : Slot) (sw : SwitchRec) (w : TableWhat) (data : List Byte) : State :=
  match w with
  | .rootRead => s
  | .directoryRead =>
    match sw.gate with
    | some g => directoryLoaded s i g data
    | none => s
  | .gateRead => gateLoaded s i sw data
  | .savedWrite =>
    match sw.target with
    | some a => beginLoad s i sw a
    | none => s
  | .recordRead =>
    match sw.target with
    | some a => recordLoaded s i sw a data
    | none => s
  | .extensionRead =>
    match sw.loaded with
    | some l => extensionLoaded s i sw l data
    | none => s
  | .runHeaderRead =>
    match sw.loaded, sw.target, sw.cursor with
    | some l, some a, some c => headerLoaded s i sw l a c data
    | _, _, _ => s
  | .descriptorRead =>
    match sw.cursor with
    | some c => descriptorLoaded s i sw c data
    | none => s
  | .headerWrite => closeResult s i sw
  | .resultWrite => leaveSwitch s i sw

/-- The outcome of a slot's table operation handed to its switch (R131): data when it settled OK, else
whether it failed by timeout. -/
def slotOpSettled (s : State) (i : Slot) (w : TableWhat) (res : Option (List Byte)) (timedOut : Bool) :
    State :=
  match (s.slot i).switch with
  | none => s
  | some sw =>
    if w.inStage (s.slot i).state then
      match res with
      | some data => slotOpOk s i sw w data
      | none => slotOpFailed s i sw w timedOut
    else s

/-! ### Taking a force (R150, R151) and the end of a slot's event -/

/-- The slots whose pending force may be taken (R150), the device being RUNNING. -/
def SlotRecord.takes (r : SlotRecord) (f : PendingForce) : Bool :=
  match r.state with
  | .active => true
  | .unbound => decide (f = .rebind)
  | .draining =>
    match r.switch with
    | some sw => decide (sw.origin = .mailbox)
    | none => false
  | .off | .binding | .resolving | .saving | .loading | .closing => false

/-- The preempted mailbox part of a force that replaces a captured mailbox request (R16, R151). -/
def SlotRecord.preempts (r : SlotRecord) : Option Preempted :=
  match r.switch with
  | some sw => sw.mailbox.map fun m => { target := m.target, seqTag := sw.seqTag.getD 0 }
  | none => none

/-- The switch record of a taken force (R16, R150). -/
def SlotRecord.forceSwitch (r : SlotRecord) (f : PendingForce) : SwitchRec :=
  match f with
  | .call g => { SwitchRec.new .force .call with gate := some g, preempted := r.preempts }
  | .rebind => { SwitchRec.new .force .rebind with preempted := r.preempts }

/-- The slot's pending force is taken when R150 allows it, and DRAINING ends at once when the slot has
no granule in the tracker (R130). -/
def takeForce (s : State) (i : Slot) : State :=
  let r := s.slot i
  match r.pendingForce with
  | none => s
  | some f =>
    if s.device = .running ∧ r.takes f = true then
      endDraining
        (s.setSlot i
          { r with pendingForce := none, switch := some (r.forceSwitch f), state := .draining }) i
    else s

/-- The queued requests of a slot that became UNBOUND are answered (R32), after the records of the
switch that left it so (R176). -/
def answerIfUnbound (s : State) (i : Slot) (was : Bool) : State :=
  if s.device.guards ∧ (was = true ∨ (s.slot i).state = .unbound) then s.answerUnboundQueues i
  else s

/-- The end of an event of one slot: its pending force is taken where allowed (R144, R150), and its
queues are answered when the slot became UNBOUND in the event (R32). -/
def conclude (s : State) (i : Slot) : State :=
  answerIfUnbound (takeForce s i) i (decide ((s.slot i).state = .unbound))

end Sys2Proof.Machine
end

