-- ==== Sys2Proof/Machine/Decoding.lean ====
section
/-! DEFINITION. The decode engine (chapters 2, 3 and 5): the round-robin choice of a slot, window resolution, the budget check, the taken decode with its fault, denial count, granule work and capture, and the meaning of DECODE_ATTEMPT. -/

namespace Sys2Proof.Machine

/-! ### Candidates (R36 to R38) -/

/-- A slot's candidate (R37): the head of its priority queue, else of its regular queue unless held. -/
def State.candidate (s : State) (i : Slot) : Option Request :=
  match (s.queues i).priority with
  | r :: _ => some r
  | [] => if (s.slot i).held then none else (s.queues i).regular.head?

/-- The slot and device conditions of decodability (R38). -/
def State.slotDecodes (s : State) (i : Slot) : Bool :=
  (decide (s.device = .direct) && decide ((s.slot i).state ≠ .off)) ||
    (decide (s.device = .running) && decide ((s.slot i).state = .active))

/-- A slot has a decodable candidate (R38). -/
def State.decodable (s : State) (i : Slot) : Bool :=
  s.slotDecodes i && decide (s.outstanding.length < Config.outstandingEntries) &&
    (s.candidate i).isSome

/-- The slots in the order in which an attempt looks at them (R36). -/
def roundRobin (p : Slot) : List Slot := allSlots.map fun k => p + k

/-- The slot of the next attempt, none when no slot has a decodable candidate (R36). -/
def State.nextSlot (s : State) : Option Slot :=
  (roundRobin s.pointer).find? fun i => s.decodable i

/-! ### Window resolution (R47 to R57, R68) -/

/-- A granule as judged: its outcome, and whether its deciding window is EXEMPT (R57). -/
structure Judged where
  outcome : GranuleOutcome
  exempt : Bool
  deriving DecidableEq, Repr

/-- The deciding window of a granule (R49): the first of the list that covers its start. -/
def decidingWindow (ws : List Window) (start : Nat) : Option Window :=
  ws.find? fun w => w.covers start

/-- The lane check fails (R52). -/
def Window.laneFails (w : Window) (l : Lane) : Bool :=
  decide (l = .priority) && (!w.priorityOk || w.watch)

/-- The window's threshold for an op (R53). -/
def Window.threshold (w : Window) (op : Op) : Threshold :=
  match op with
  | .read => w.readThr
  | .write => w.writeThr

/-- A target address lies in the protected table region (R54). -/
def inRegion (root : Option RootCopy) (t : Addr) : Bool :=
  match root with
  | some r =>
    decide (r.regionBase.toNat ≤ t.toNat) &&
      decide (t.toNat < r.regionBase.toNat + r.regionPages * Config.pageBytes)
  | none => false

/-- The guard of R54 stops a granule. -/
def guarded (root : Option RootCopy) (b : Binding) (op : Op) (t : Addr) : Bool :=
  decide (op = .write) && decide (b.level ≠ 0) && inRegion root t

/-- The checks of R50 on a granule of a window on a memory port, after the hole check. -/
def judgeOnPort (root : Option RootCopy) (b : Binding) (w : Window) (r : Request) (p : MemPort)
    (t : Addr) : GranuleOutcome :=
  if w.laneFails r.lane then .failed .lane
  else if (w.threshold r.op).permits b.level = false then .failed .denied
  else if guarded root b r.op t then .failed (.tableGuard t)
  else .issuable t p

/-- The four checks of R50 on a granule whose first request byte is `a`. -/
def judgeWindow (root : Option RootCopy) (b : Binding) (w : Window) (r : Request) (a : Nat) :
    GranuleOutcome :=
  match w.port with
  | .hole => .failed .denied
  | .primary => judgeOnPort root b w r .primary (w.translate a)
  | .aux => judgeOnPort root b w r .aux (w.translate a)

/-- The binding a decode reads (R47): none in DIRECT. -/
def State.decodeBinding (s : State) (i : Slot) : Option Binding :=
  if s.device = .direct then none else (s.slot i).binding

/-- The deciding window of granule `j` of a request (R49). -/
def State.windowOf (s : State) (i : Slot) (r : Request) (j : Nat) : Option Window :=
  decidingWindow (s.committedList i) (granuleStart r.addr j)

/-- Granule `j` of a request outside DIRECT, under a binding (R49, R50). -/
def judgeBound (s : State) (i : Slot) (b : Binding) (r : Request) (j : Nat) : Judged :=
  match s.windowOf i r j with
  | none => { outcome := .failed .unmapped, exempt := false }
  | some w =>
    { outcome := judgeWindow s.root b w r (firstByte r.addr j), exempt := w.exempt }

/-- Granule `j` of a request: passed through in DIRECT (R68), else judged under the binding. -/
def judgeGranule (s : State) (i : Slot) (r : Request) (j : Nat) : Judged :=
  if s.device = .direct then
    { outcome := .issuable (BitVec.ofNat 40 (firstByte r.addr j)) .primary, exempt := false }
  else
    match (s.slot i).binding with
    | some b => judgeBound s i b r j
    | none => { outcome := .failed .unmapped, exempt := false }

/-- The decode of a request: every granule judged, from granule 0 (R48). -/
def decodeRequest (s : State) (i : Slot) (r : Request) : List Judged :=
  (List.range (granuleCount r.addr r.length)).map (judgeGranule s i r)

/-- Granule 0 is issuable (R58). -/
def headIssuable (js : List Judged) : Bool :=
  match js with
  | j :: _ => j.outcome.isIssuable
  | [] => false

/-- The issuable count (R57). -/
def issuableCount (js : List Judged) : Nat :=
  if headIssuable js then (js.filter fun j => j.outcome.isIssuable).length else 0

/-- The budget count (R57). -/
def budgetCount (r : Request) (js : List Judged) : Nat :=
  match r.lane with
  | .priority => 0
  | .regular =>
    if headIssuable js then (js.filter fun j => j.outcome.isIssuable && !j.exempt).length else 0

/-! ### The outcome of an attempt (R39, R90, R91) -/

/-- The three outcomes of an attempt (R39). -/
inductive Attempt where
  | taken | held | notTaken
  deriving DecidableEq, Repr

/-- The epoch length of the root copy is nonzero (R90). -/
def State.epochsOn (s : State) : Bool :=
  match s.root with
  | some r => decide (r.epochLength ≠ 0)
  | none => false

/-- The budget check applies to a request (R90). -/
def State.budgetApplies (s : State) (r : Request) (b : Binding) : Bool :=
  decide (s.device = .running) && decide (r.lane = .regular) && s.epochsOn &&
    decide (b.epochBudget ≠ 0)

/-- A request of budget count `n` is admitted (R91). -/
def Binding.admits (b : Binding) (n : Nat) : Bool :=
  decide (n ≤ b.remaining) || decide (b.remaining = b.epochBudget)

/-- The budget check holds a request back (R39, R91). -/
def State.holds (s : State) (i : Slot) (r : Request) (js : List Judged) : Bool :=
  match s.decodeBinding i with
  | some b => s.budgetApplies r b && !b.admits (budgetCount r js)
  | none => false

/-- The outcome of an attempt (R39): the budget check comes before the tracker check (R91). -/
def attemptOutcome (s : State) (i : Slot) (r : Request) (js : List Judged) : Attempt :=
  if s.holds i r js then .held
  else if s.trackerFree < issuableCount js then .notTaken
  else .taken

/-! ### A taken decode (R41, R56, R58 to R63, R66) -/

/-- A request leaves the head of the queue of its lane (R31). -/
def Intake.pop (q : Intake) (l : Lane) : Intake :=
  match l with
  | .regular => { q with regular := q.regular.tail }
  | .priority => { q with priority := q.priority.tail }

/-- An outcome that raises the denial count (R62). -/
def GranuleOutcome.denies (o : GranuleOutcome) : Bool :=
  match o with
  | .issuable _ _ => false
  | .failed .lane => false
  | .failed .unmapped => true
  | .failed .denied => true
  | .failed (.tableGuard _) => true

/-- The binding after a taken decode (R62, R91): its remaining budget and its denial count. -/
def State.spentBinding (s : State) (r : Request) (js : List Judged) (b : Binding) : Binding :=
  { b with
    remaining := if s.budgetApplies r b then b.remaining - budgetCount r js else b.remaining
    denials := if js.any (fun j => j.outcome.denies) then min (b.denials + 1) Config.counterMax
      else b.denials }

/-- The slot's binding charged for a taken decode outside DIRECT. -/
def chargeBinding (s : State) (i : Slot) (r : Request) (js : List Judged) : State :=
  match s.decodeBinding i with
  | some b => s.setSlot i { s.slot i with binding := some (s.spentBinding r js b) }
  | none => s

/-- The fault kind of a failing outcome (R58). -/
def DecodeFail.kind (f : DecodeFail) : FaultKind :=
  match f with
  | .unmapped => .unmapped
  | .denied => .denied
  | .lane => .lane
  | .tableGuard _ => .tableGuard

/-- The completion status of a failing outcome (R58). -/
def DecodeFail.status (f : DecodeFail) : CompletionStatus :=
  match f with
  | .unmapped => .unmapped
  | .denied => .denied
  | .lane => .unsupported
  | .tableGuard _ => .denied

/-- The target address of a decode fault record (R63). -/
def DecodeFail.target (f : DecodeFail) : Option Addr :=
  match f with
  | .tableGuard t => some t
  | .unmapped => none
  | .denied => none
  | .lane => none

/-- The lowest granule that is not issuable, with why (R63). -/
def lowestFailing (js : List Judged) (n : Nat) : Option (Nat × DecodeFail) :=
  match js with
  | [] => none
  | j :: rest =>
    match j.outcome with
    | .issuable _ _ => lowestFailing rest (n + 1)
    | .failed f => some (n, f)

/-- The fault record of a decode (R63). -/
def decodeFault (s : State) (i : Slot) (r : Request) (n : Nat) (f : DecodeFail) : FaultRecord :=
  { kind := f.kind, slot := i, context := s.contextOf i,
    request := some (BitVec.ofNat 40 (firstByte r.addr n)), target := f.target, detail := none }

/-- The fault of a taken decode handed to the log (R63). -/
def logDecode (s : State) (i : Slot) (r : Request) (js : List Judged) : State :=
  match lowestFailing js 0 with
  | some (n, f) => s.logFault (decodeFault s i r n f)
  | none => s

/-- The read data of an outstanding entry as laid out at the decode (R60, R61): the fill data of the
binding; in DIRECT, where no fill pattern exists, free bytes (log entry 5); nothing for a WRITE. -/
def State.presetData (s : State) (i : Slot) (r : Request) : List Byte :=
  match r.op with
  | .write => []
  | .read =>
    match s.decodeBinding i with
    | some b => fillData b.fill r.addr r.length
    | none => freeBytes s.freeCount r.length

/-- The completion of a decode whose granule 0 is not issuable (R58). -/
def deniedCompletion (s : State) (i : Slot) (r : Request) (f : DecodeFail) : Completion :=
  { initiator := i, tag := r.tag, status := f.status, firstFailing := some 0,
    data := if r.op = .read then some (s.presetData i r) else none }

/-- The outstanding entry of a taken decode (R41). -/
def outstandingOf (s : State) (i : Slot) (r : Request) (js : List Judged) : Outstanding :=
  { slot := i, tag := r.tag, op := r.op, lane := r.lane, addr := r.addr, length := r.length,
    granules := js.map fun j => { outcome := j.outcome, settled := none },
    data := s.presetData i r }

/-- The granule work of granule `n` (R56), none when it is not issuable. -/
def granuleWork (i : Slot) (r : Request) (watched : Bool) (j : Judged) (n : Nat) :
    Option TrackerEntry :=
  match j.outcome with
  | .issuable t p =>
    some
      { slot := i, tag := r.tag, granule := n, op := r.op, lane := r.lane, port := p, target := t,
        count := granuleBytes r.addr r.length n,
        mask := slice r.mask (granuleOffset r.addr n) (granuleBytes r.addr r.length n),
        data := slice r.data (granuleOffset r.addr n) (granuleBytes r.addr r.length n),
        watched := watched, flight := none }
  | .failed _ => none

/-- The granule work of a taken decode, in ascending granule number (R56). -/
def allWork (i : Slot) (r : Request) (watched : Bool) (js : List Judged) : List TrackerEntry :=
  js.zipIdx.filterMap fun (j, n) => granuleWork i r watched j n

/-- The window through which a decode captures a watched write (R66), none when it is not one. -/
def State.watchWindow (s : State) (i : Slot) (r : Request) (js : List Judged) : Option Window :=
  if s.device = .running ∧ r.op = .write ∧ r.lane = .regular ∧ r.length = 8 ∧
      r.mask = List.replicate 8 true ∧ headIssuable js = true then
    (s.windowOf i r 0).filter fun w => w.watch && decide (w.reqBase = r.addr)
  else none

/-- The switch record of a captured request (R117, R119). -/
def captured (r : Request) (w : Window) : SwitchRec :=
  { SwitchRec.new .mailbox (mailboxKind (byteAt r.data 0)) with
    gate := some { group := byteAt r.data 1, entry := byteAt r.data 2 }
    seqTag := some (BitVec.ofNat 16 (field r.data 4 2))
    mailbox := some { target := w.tgtBase, request := r.addr }
    watch := some .pending }

/-- The capture (R66, R119): the switch record is made and the slot enters DRAINING; a force that
waits is taken (R150). -/
def capture (s : State) (i : Slot) (sw : SwitchRec) : State :=
  takeForce (s.setSlot i { s.slot i with state := .draining, switch := some sw }) i

/-- The part of a taken decode that sends its request to memory or completes it (R42, R58, R59). -/
def placeDecode (s : State) (i : Slot) (r : Request) (watched : Bool) (js : List Judged) : State :=
  match js with
  | { outcome := .failed f, exempt := _ } :: _ =>
    (s.form (deniedCompletion s i r f)).spendFree r.length
  | _ =>
    { s with
        outstanding := s.outstanding ++ [outstandingOf s i r js]
        tracker := s.tracker ++ allWork i r watched js }.spendFree r.length

/-- A decode that is taken (R47). -/
def takeDecode (s : State) (i : Slot) (r : Request) (js : List Judged) : State :=
  let w := s.watchWindow i r js
  let t := chargeBinding
    (logDecode (placeDecode (s.setQueues i ((s.queues i).pop r.lane)) i r w.isSome js) i r js) i r js
  match w with
  | some w => capture t i (captured r w)
  | none => t

/-- An attempt on a slot's candidate (R39); the pointer goes to the slot after it (R36). -/
def attempt (s : State) (i : Slot) (r : Request) : State :=
  let js := decodeRequest s i r
  let t := match attemptOutcome s i r js with
    | .taken => takeDecode s i r js
    | .held => s.setSlot i { s.slot i with held := true }
    | .notTaken => s
  { t with pointer := i + 1 }

/-- The next attempt of the decode engine; without a decodable candidate it makes none (R36). -/
def decodeStep (s : State) : State :=
  match s.nextSlot with
  | none => s
  | some i =>
    match s.candidate i with
    | some r => attempt s i r
    | none => s

/-- DECODE_ATTEMPT (R39). -/
def execDecodeAttempt (s : State) : Host.Outcome State Fault Refusal :=
  finish (decodeStep s)

end Sys2Proof.Machine
end

