-- ==== Sys2Proof/Machine/Start.lean ====
section
/-! DEFINITION. Device states (chapters 9 and 10): the root record read and its checks, the boot bindings, the entries to RUNNING and QUIESCED, and START, QUIESCE and RESUME judged. -/

namespace Sys2Proof.Machine

/-! ### The root record (R163 to R167) -/

/-- The address the root record is read at (R163, R183): ROOT_ADDR rounded down to 256. -/
def State.rootAddr (s : State) : Addr :=
  BitVec.ofNat 40 (alignDown (s.mgmt.rootHigh ++ s.mgmt.rootLow) 256)

/-- The root record read. -/
def rootRead (a : Addr) : TableOp :=
  { owner := none, what := .rootRead, op := .read, target := a, length := 160, data := [] }

/-- The root record read is queued once the tracker is empty in STARTING (R163). -/
def queueRootRead (s : State) : State :=
  if s.device = .starting ∧ s.root = none ∧ s.tracker = [] then s.queueTable (rootRead s.rootAddr)
  else s

/-- A start that fails (R165). -/
def startFailed (s : State) (c : StartResult) : State :=
  ({ s with startResult := c, device := .direct }.logFault
    { kind := .startFault, slot := 0, context := none, request := none, target := none,
      detail := some (.start c) }).setSticky startDoneBit

/-- The slots that take part in the start (R167): enabled, with a boot binding. -/
def State.bootSlots (s : State) : List Slot :=
  allSlots.filter fun i => s.mgmt.slotEnable.getLsbD i.val && decide (s.bootOf i ≠ 0)

/-- A slot enters BINDING at the root copy (R146, R167). -/
def beginBoot (s : State) (i : Slot) : State :=
  let sw := SwitchRec.new .bind .bind
  startBind (s.setSlot i { s.slot i with state := .binding, switch := some sw }) i sw

/-- The root copy is made, and every slot that takes part enters BINDING, in a free order (R113,
R166, R167; log entry 4). -/
def startPassed (s : State) (r : RootCopy) : State :=
  let t := { s with root := some r }
  (freeOrder t.freeCount t.bootSlots).foldl beginBoot (t.spendFree 1)

/-- The settlement of the root record read (R164), with its data when it settled OK. -/
def rootSettled (s : State) (res : Option (List Byte)) : State :=
  match res with
  | none => startFailed s .rootRead
  | some data =>
    if rootCheck data = .done then startPassed s (parseRoot data)
    else startFailed s (rootCheck data)

/-! ### Entry to RUNNING and to QUIESCED (R158, R169) -/

/-- A slot holds a switch record of origin BIND. -/
def SlotRecord.booting (r : SlotRecord) : Bool :=
  match r.switch with
  | some sw => decide (sw.origin = .bind)
  | none => false

/-- The epoch length, 0 when absent (R94). -/
def State.epochLength (s : State) : Nat :=
  match s.root with
  | some r => r.epochLength
  | none => 0

/-- The queues of a slot answered when it is UNBOUND (R32). -/
def answerUnboundSlot (s : State) (i : Slot) : State :=
  if (s.slot i).state = .unbound then s.answerUnboundQueues i else s

/-- The entry to RUNNING (R95, R169). -/
def enterRunning (s : State) : State :=
  allSlots.foldl answerUnboundSlot
    ({ s with
        device := .running
        startResult := .done
        timer := { s.timer with count := 0, running := decide (s.epochLength ≠ 0) } }.setSticky
      startDoneBit)

/-- What RUNNING waits for in STARTING (R169): a root copy, and no switch record of origin BIND. -/
def State.startEnds (s : State) : Bool :=
  decide (s.device = .starting) && s.root.isSome && allSlots.all fun i => !(s.slot i).booting

/-- What QUIESCED waits for in QUIESCING (R158): the tracker empty, the TFU idle, no switch record. -/
def State.quiesceEnds (s : State) : Bool :=
  decide (s.device = .quiescing) && s.tracker.isEmpty && s.tfu.idle &&
    allSlots.all fun i => (s.slot i).switch.isNone

/-- The entry to QUIESCED (R158). -/
def enterQuiesced (s : State) : State :=
  { s with device := .quiesced }.setSticky quiescedBit

/-- The device state moves on at the first event at which its condition holds (R158, R169). -/
def deviceProgress (s : State) : State :=
  if s.startEnds then enterRunning s
  else if s.quiesceEnds then enterQuiesced s
  else s

/-! ### COMMAND: START, QUIESCE, RESUME -/

/-- START judged (R163). -/
def startCommand (s : State) : FrameStatus × State :=
  if s.device = .direct ∧ s.resetHeld = false then
    (.ok, queueRootRead { s with device := .starting, startResult := .none })
  else (.refused, s)

/-- QUIESCE judged (R158). -/
def quiesceCommand (s : State) : FrameStatus × State :=
  if s.device = .running then (.ok, deviceProgress { s with device := .quiescing })
  else (.refused, s)

/-- The slots whose pending force a RESUME takes (R150, R159). -/
def State.forcedSlots (s : State) : List Slot :=
  allSlots.filter fun i =>
    match (s.slot i).pendingForce with
    | some f => (s.slot i).takes f
    | none => false

/-- RESUME judged (R159): the pending forces are taken in a free order (log entry 4), and then the
queues of those slots that ended UNBOUND are answered (R32, R176).  R32 orders the slots at the entry to
RUNNING only; that here their queues are answered after every force, and slot after slot in the order in
which the forces were taken, is the model's choice (log entry 30). -/
def resumeCommand (s : State) : FrameStatus × State :=
  if s.device = .quiescing ∨ s.device = .quiesced then
    let t := { s with device := .running }
    let order := freeOrder t.freeCount t.forcedSlots
    (.ok, order.foldl answerUnboundSlot (order.foldl takeForce (t.spendFree 1)))
  else (.refused, s)

end Sys2Proof.Machine
end

