-- ==== Sys2Proof/Machine/Timer.lean ====
section
/-! DEFINITION. The reference timebase and the epoch timer (chapter 5): the refill at an expiry, and time passing with the expiries that fall in it. -/

namespace Sys2Proof.Machine

/-- A binding refilled (R96). -/
def Binding.refill (b : Binding) : Binding := { b with remaining := b.epochBudget }

/-- A slot's part of an expiry (R96): its binding refilled and its held mark ended. -/
def SlotRecord.expiry (r : SlotRecord) : SlotRecord :=
  { r with binding := r.binding.map (·.refill), held := false }

/-- An expiry of the epoch timer (R95, R96): the count returns to 0 and every slot takes it. -/
def epochExpires (s : State) : State :=
  { s with
      timer := { s.timer with count := 0 }
      slots := s.slots.map fun r => r.expiry }

/-- The reading of the reference timebase moved on. -/
def State.later (s : State) (d : Nat) : State :=
  { s with timer := { s.timer with now := s.timer.now + d } }

/-- The epoch count moved to a value. -/
def State.setCount (s : State) (n : Nat) : State :=
  { s with timer := { s.timer with count := n } }

/-- Time passes on the reference timebase (R95): a running count goes with it, and every expiry that
falls in the time is taken, at E, 2E, 3E of the epoch length E. -/
def passTime (s : State) (d : Nat) : State :=
  let t := s.later d
  if s.timer.running then
    if s.timer.count + d < s.epochLength then t.setCount (s.timer.count + d)
    else (epochExpires t).setCount ((s.timer.count + d) % s.epochLength)
  else t

/-- An expiry of the epoch timer falls on the last instant of a time that passes. -/
def State.epochFallsAt (s : State) (d : Nat) : Bool :=
  s.timer.running && decide (0 < d) && decide (s.epochLength ≤ s.timer.count + d) &&
    decide ((s.timer.count + d) % s.epochLength = 0)

/-- Time passes up to an instant at which an expiry falls: those before it are taken, it is not. -/
def passUntil (s : State) (d : Nat) : State :=
  (passTime s (d - 1)).later 1

end Sys2Proof.Machine
end

