-- ==== Sys2Proof/Machine/Ports.lean ====
section
/-! DEFINITION. The memory ports (chapter 4): issue, the primary port arbiter, responses, settlement of granules and table operations by response or by timeout, and the meanings of the port commands and of RESPONSE_LIMIT_EXPIRY. -/

namespace Sys2Proof.Machine

/-! ### Issue (R73 to R77) -/

/-- A tracker entry waits for a port (R71, R73). -/
def TrackerEntry.waitsFor (e : TrackerEntry) (p : MemPort) : Bool :=
  decide (e.port = p) && e.flight.isNone

/-- The oldest WAITING granule of a port (R73). -/
def State.oldestWaiting (s : State) (p : MemPort) : Option TrackerEntry :=
  s.tracker.find? fun e => e.waitsFor p

/-- The first entry of a list that satisfies a condition, changed. -/
def updateFirst {α : Type} (c : α → Bool) (f : α → α) : List α → List α
  | [] => []
  | x :: xs => if c x then f x :: xs else x :: updateFirst c f xs

/-- The issue record of a granule (R74). -/
def granuleIssue (e : TrackerEntry) (id : IssueId) : Issue :=
  { id := id, op := e.op, target := e.target, count := e.count, mask := e.mask, data := e.data,
    lane := e.lane, origin := some e.slot, table := false }

/-- The issue record of a table operation (R74): REGULAR lane, all bytes of a WRITE enabled. -/
def tableIssue (o : TableOp) (id : IssueId) : Issue :=
  { id := id, op := o.op, target := o.target, count := o.length,
    mask := if o.op = .write then List.replicate o.length true else [],
    data := o.data, lane := .regular, origin := o.owner, table := true }

/-- The issue a port carries (log entry 13). -/
def State.drive (s : State) (p : MemPort) (x : Issue) : State :=
  match p with
  | .primary => { s with pOut := some x }
  | .aux => { s with aOut := some x }

/-- The oldest WAITING granule of a port issued under an identifier (R71, R75). -/
def issueGranule (s : State) (p : MemPort) (e : TrackerEntry) (id : IssueId) : State :=
  (({ s with
      tracker := updateFirst (·.waitsFor p)
        (fun x => { x with flight := some { id := id, time := s.timer.now } }) s.tracker }.setPool p
      ((s.pool p).give id)).drive p (granuleIssue e id))

/-- The TFU's offered operation (R77). -/
def Tfu.offer (t : Tfu) : Option TableOp :=
  match t.inFlight with
  | some _ => none
  | none => t.queue.head?

/-- The TFU's offered operation issued under an identifier (R77). -/
def issueTable (s : State) (o : TableOp) (id : IssueId) : State :=
  ({ s with
      tfu :=
        { queue := s.tfu.queue.tail,
          inFlight := some { operation := o, flight := { id := id, time := s.timer.now } } } }.setPool
    .primary (s.pPool.give id)).drive .primary (tableIssue o id)

/-- The A-port accepts an issue (R73): none while the reset input is held (R87), no AUX granule waits
or no identifier is FREE (R75). -/
def auxIssue (s : State) : State :=
  if s.resetHeld then s
  else
    match s.oldestWaiting .aux, s.aPool.next with
    | some e, some id => issueGranule s .aux e id
    | _, _ => s

/-- The side the primary port arbiter gives an issue to (R76), none when neither waits. -/
def arbiter (granule table : Bool) (last : Side) : Option Side :=
  match granule, table, last with
  | false, false, _ => none
  | true, false, _ => some .granule
  | false, true, _ => some .table
  | true, true, .granule => some .table
  | true, true, .table => some .granule

/-- The issue made by the side that is served (R76). -/
def serve (s : State) (side : Side) (id : IssueId) : State :=
  match side with
  | .granule =>
    match s.oldestWaiting .primary with
    | some e => { issueGranule s .primary e id with lastServed := .granule }
    | none => s
  | .table =>
    match s.tfu.offer with
    | some o => { issueTable s o id with lastServed := .table }
    | none => s

/-- The P-port accepts an issue (R76): none while the reset input is held (R87), neither side waits
or no identifier is FREE (R75). -/
def primaryIssue (s : State) : State :=
  if s.resetHeld then s
  else
    match arbiter (s.oldestWaiting .primary).isSome s.tfu.offer.isSome s.lastServed,
      s.pPool.next with
    | some side, some id => serve s side id
    | _, _ => s

/-- AUX_PORT_ISSUE (R73). -/
def execAuxPortIssue (s : State) : Host.Outcome State Fault Refusal :=
  finish (auxIssue s)

/-- PRIMARY_PORT_ISSUE (R76). -/
def execPrimaryPortIssue (s : State) : Host.Outcome State Fault Refusal :=
  finish (primaryIssue s)

/-! ### Settlement of a granule (R64, R65, R79, R80, R82) -/

/-- How an operation settles: by a response, or by expiry of the response limit. -/
inductive Settlement where
  | response (status : RespStatus) (data : List Byte)
  | timeout
  deriving DecidableEq, Repr

/-- A settlement is OK; an ERROR response and a timeout are not (R79, R80, R82). -/
def Settlement.status (h : Settlement) : RespStatus :=
  match h with
  | .response st _ => st
  | .timeout => .error

/-- The state of the identifier after a settlement (R75). -/
def Settlement.idState (h : Settlement) : IdState :=
  match h with
  | .response _ _ => .free
  | .timeout => .retired

/-- A settlement is a timeout (R82). -/
def Settlement.timedOut (h : Settlement) : Bool :=
  match h with
  | .response _ _ => false
  | .timeout => true

/-- The data of a settlement; a timeout has none. -/
def Settlement.data (h : Settlement) : List Byte :=
  match h with
  | .response _ d => d
  | .timeout => []

/-- The fault kind of a settlement (R83), none when it is OK. -/
def Settlement.faultKind (h : Settlement) : Option FaultKind :=
  match h with
  | .response .ok _ => none
  | .response .error _ => some .memoryError
  | .timeout => some .timeout

/-- A granule of an outstanding entry that is issuable and not yet settled (R41). -/
def OutGranule.unsettled (g : OutGranule) : Bool :=
  g.outcome.isIssuable && g.settled.isNone

/-- A granule that was not issuable or settled as ERROR (R65). -/
def OutGranule.failing (g : OutGranule) : Bool :=
  !g.outcome.isIssuable || decide (g.settled = some .error)

/-- The merged status of a request whose granules have settled (R64). -/
def Outstanding.status (o : Outstanding) : CompletionStatus :=
  if o.granules.any (fun g => decide (g.settled = some .error)) then .memoryError
  else if o.granules.any (fun g => !g.outcome.isIssuable) then .partialDone
  else .ok

/-- The completion of a request whose granules have settled (R34, R42, R64, R65). -/
def Outstanding.completion (o : Outstanding) : Completion :=
  { initiator := o.slot, tag := o.tag, status := o.status,
    firstFailing := if o.status = .ok then none else o.granules.findIdx? (·.failing),
    data := if o.op = .read then some o.data else none }

/-- The entry of a granule's request. -/
def Outstanding.isOf (o : Outstanding) (e : TrackerEntry) : Bool :=
  decide (o.slot = e.slot) && decide (o.tag = e.tag)

/-- The entry after one of its granules settles (R61, R79, R80): the settlement is recorded, and a
READ granule settled OK places its bytes. -/
def Outstanding.settle (o : Outstanding) (e : TrackerEntry) (st : RespStatus) (bytes : List Byte) :
    Outstanding :=
  { o with
    granules := o.granules.modify e.granule fun g => { g with settled := some st }
    data := if o.op = .read ∧ st = .ok then setSlice o.data (granuleOffset o.addr e.granule) bytes
      else o.data }

/-- The entry put back, or its completion formed and the entry freed when no granule is unsettled
(R42, R79). -/
def putSettled (s : State) (e : TrackerEntry) (o : Outstanding) : State :=
  if o.granules.any (·.unsettled) then
    { s with outstanding := updateFirst (·.isOf e) (fun _ => o) s.outstanding }
  else { s with outstanding := s.outstanding.eraseP (·.isOf e) }.form o.completion

/-- The outstanding entry's part of a settlement. -/
def settleRequest (s : State) (e : TrackerEntry) (h : Settlement) : State :=
  match s.outstanding.find? (·.isOf e) with
  | some o => putSettled s e (o.settle e h.status (s.fitData h.data e.count))
  | none => s

/-- The fault record of a settlement (R83). -/
def settlementFault (s : State) (e : TrackerEntry) (k : FaultKind) : FaultRecord :=
  { kind := k, slot := e.slot, context := s.contextOf e.slot,
    request := (s.outstanding.find? (·.isOf e)).map fun o =>
      BitVec.ofNat 40 (firstByte o.addr e.granule),
    target := some e.target, detail := none }

/-- The settlement's fault record handed to the log (R80, R82). -/
def logSettlement (s : State) (e : TrackerEntry) (h : Settlement) : State :=
  match h.faultKind with
  | some k => s.logFault (settlementFault s e k)
  | none => s

/-- The watch outcome set at the settlement of a watched granule (R120). -/
def SwitchRec.report (sw : SwitchRec) (st : RespStatus) : SwitchRec :=
  match sw.origin with
  | .mailbox => { sw with watch := some (if st = .ok then .ok else .failed) }
  | .force => sw
  | .bind => sw
  | .enable => sw

/-- The tracker's report of a watched granule to the slot table (R120). -/
def reportWatch (s : State) (e : TrackerEntry) (st : RespStatus) : State :=
  if e.watched then
    s.setSwitch e.slot ((s.slot e.slot).switch.map fun sw => sw.report st)
  else s

/-- An ISSUED entry of a port under an identifier (R78). -/
def TrackerEntry.issuedAs (e : TrackerEntry) (p : MemPort) (id : IssueId) : Bool :=
  decide (e.port = p) && decide (e.flight.map (·.id) = some id)

/-- The tracker's part of a settlement (R71, R75): the entry and its identifier. -/
def releaseGranule (s : State) (p : MemPort) (id : IssueId) (st : IdState) : State :=
  ({ s with tracker := s.tracker.eraseP fun x => x.issuedAs p id }).setPool p ((s.pool p).put id st)

/-- What follows a settlement of a slot's granule (R72): a drain that ends, the root record read that
waits for an empty tracker (R163), and the device state (R158). -/
def afterGranule (s : State) (i : Slot) : State :=
  deviceProgress
    (queueRootRead
      (if (s.slot i).state = .draining then conclude (endDraining s i) i else s))

/-- A granule settles (R79, R80, R82).  Where the settlement completes its request and also ends a drain
that leaves the slot UNBOUND, so that its queued requests are answered (R32, R72), no rule orders these
completions: that the settled request's is formed first is the model's choice (log entry 31). -/
def settleGranule (s : State) (p : MemPort) (id : IssueId) (e : TrackerEntry) (h : Settlement) :
    State :=
  afterGranule
    (reportWatch
      ((settleRequest (logSettlement (releaseGranule s p id h.idState) e h) e h).spendFree
        (e.count - h.data.length)) e h.status) e.slot

/-! ### Settlement of a table operation (R77, R81, R82) -/

/-- What a settlement hands the block that queued a table operation (R77): the data when OK. -/
def tableOutcome (s : State) (o : TableOp) (h : Settlement) : Option (List Byte) :=
  match h with
  | .response .ok d => some (if o.op = .read then s.fitData d o.length else [])
  | .response .error _ => none
  | .timeout => none

/-- The TFU's part of a settlement: no operation in flight, and the identifier. -/
def releaseTable (s : State) (id : IssueId) (st : IdState) : State :=
  ({ s with tfu := { s.tfu with inFlight := none } }).setPool .primary (s.pPool.put id st)

/-- The outcome handed to the slot or the start sequence that queued the operation (R131, R164). -/
def handOutcome (s : State) (o : TableOp) (res : Option (List Byte)) (timedOut : Bool) : State :=
  match o.owner with
  | some i => conclude (slotOpSettled s i o.what res timedOut) i
  | none => rootSettled s res

/-- The TFU's operation in flight settles (R81, R82). -/
def settleTable (s : State) (f : TfuFlight) (h : Settlement) : State :=
  deviceProgress
    (handOutcome
      ((releaseTable s f.flight.id h.idState).spendFree (f.operation.length - h.data.length))
      f.operation (tableOutcome s f.operation h) h.timedOut)

/-! ### Responses and expiries -/

/-- The TFU's operation in flight, when it is the one issued on a port under an identifier. -/
def State.tableFlight (s : State) (p : MemPort) (id : IssueId) : Option TfuFlight :=
  match p with
  | .primary => s.tfu.inFlight.filter fun f => decide (f.flight.id = id)
  | .aux => none

/-- The operation issued on a port under an identifier settles; without one nothing changes (R78). -/
def settle (s : State) (p : MemPort) (id : IssueId) (h : Settlement) : State :=
  match s.tracker.find? (fun e => e.issuedAs p id) with
  | some e => settleGranule s p id e h
  | none =>
    match s.tableFlight p id with
    | some f => settleTable s f h
    | none => s

/-- A response arrives (R78, R84). -/
def respond (s : State) (p : MemPort) (id : IssueId) (st : RespStatus) (data : List Byte) : State :=
  match (s.pool p).get id with
  | .free => s
  | .retired => s.setPool p ((s.pool p).put id .free)
  | .inUse => settle s p id (.response st data)

/-- The flight of the operation issued on a port under an identifier. -/
def State.flightOf (s : State) (p : MemPort) (id : IssueId) : Option Flight :=
  match s.tracker.find? (fun e => e.issuedAs p id) with
  | some e => e.flight
  | none => (s.tableFlight p id).map (·.flight)

/-- One operation settled by timeout. -/
def timeOut (s : State) (x : MemPort × IssueId) : State := settle s x.1 x.2 .timeout

/-- The response limit expires for an operation (R82).  The timebase stands at the instant at which
its age reaches the limit, or after (log entry 2); with limit 0 nothing expires.  Epoch expiries on
the way are taken (R95), and one at that very instant falls in a free order with the settlement (log
entry 4). -/
def expire (s : State) (p : MemPort) (id : IssueId) : State :=
  match s.flightOf p id with
  | some f =>
    if s.mgmt.responseLimit = 0 then s
    else
      let d := f.time + s.mgmt.responseLimit.toNat - s.timer.now
      if s.epochFallsAt d then
        (freeOrder s.freeCount [(timeOut · (p, id)), epochExpires]).foldl (fun t e => e t)
          ((passUntil s d).spendFree 1)
      else timeOut (passTime s d) (p, id)
  | none => s

/-- RESPONSE_ARRIVAL (R78). -/
def execResponseArrival (p : MemPort) (id : IssueId) (st : RespStatus) (data : List Byte)
    (s : State) : Host.Outcome State Fault Refusal :=
  finish (respond s p id st data)

/-- RESPONSE_LIMIT_EXPIRY (R82). -/
def execResponseLimitExpiry (p : MemPort) (id : IssueId) (s : State) :
    Host.Outcome State Fault Refusal :=
  finish (expire s p id)

/-! ### Operations whose limit has expired -/

/-- A flight has reached the response limit (R82). -/
def State.dueFlight (s : State) (f : Flight) : Bool :=
  decide (s.mgmt.responseLimit ≠ 0) &&
    decide (f.time + s.mgmt.responseLimit.toNat ≤ s.timer.now)

/-- The operation of a tracker entry, when its limit has expired. -/
def State.dueGranule (s : State) (e : TrackerEntry) : Option (MemPort × IssueId) :=
  (e.flight.filter fun f => s.dueFlight f).map fun f => (e.port, f.id)

/-- Every operation in flight whose limit has expired, granules first. -/
def State.dueOps (s : State) : List (MemPort × IssueId) :=
  s.tracker.filterMap (fun e => s.dueGranule e) ++
    ((s.tfu.inFlight.filter fun f => s.dueFlight f.flight).map fun f =>
      (MemPort.primary, f.flight.id)).toList

/-- A write of RESPONSE_LIMIT taken (R82): each operation whose age has reached the new limit is
settled by timeout, one after another in a free order (log entry 4). -/
def limitWritten (s : State) (limit : BitVec 12) : State :=
  let t := { s with mgmt := { s.mgmt with responseLimit := limit } }
  (freeOrder t.freeCount t.dueOps).foldl timeOut (t.spendFree 1)

end Sys2Proof.Machine
end

