-- ==== Sys2Proof/Machine/Epoch.lean ====
section
/-! DEFINITION. The epoch timer (chapter 5): the tick of the reference timebase on an empty queue, and the meaning of EPOCH_EXPIRY. -/

namespace Sys2Proof.Machine

/-- EPOCH_EXPIRY taken (R95).  The timebase stands at the instant at which the count reaches the epoch
length (log entry 2); a stopped timer takes no expiry. -/
def takeEpochExpiry (s : State) : State :=
  if s.timer.running then epochExpires (s.later (s.epochLength - s.timer.count)) else s

/-- EPOCH_EXPIRY (R96). -/
def execEpochExpiry (s : State) : Host.Outcome State Fault Refusal :=
  finish (takeEpochExpiry s)

/-- One microsecond passes (R82, R95). -/
def tick (s : State) : State :=
  if s.timer.running ∧ s.epochLength ≤ s.timer.count + 1 then
    epochExpires (s.later 1)
  else passTime s 1

/-- A step with no command waiting (log entry 1): an operation whose limit has expired settles by
timeout, one in a free order; when there is none, a microsecond passes. -/
def idle (s : State) : State :=
  match freeOrder s.freeCount s.dueOps with
  | [] => tick s
  | x :: _ => timeOut (s.spendFree 1) x

end Sys2Proof.Machine
end

