-- ==== Sys2Proof/Machine/Forces.lean ====
section
/-! DEFINITION. Forces (chapter 9.1): FORCE and CANCEL judged. -/

namespace Sys2Proof.Machine

/-- A force becomes the slot's pending force, and is taken at once when R150 allows it (R149). -/
def acceptForce (s : State) (i : Slot) (f : PendingForce) : State :=
  conclude (s.setSlot i { s.slot i with pendingForce := some f }) i

/-- A force is of kind CALL. -/
def PendingForce.isCall (f : PendingForce) : Bool :=
  match f with
  | .call _ => true
  | .rebind => false

/-- A write of FORCE with a kind that names CALL or REBIND, judged (R149). -/
def forceCommand (i : Slot) (f : PendingForce) (s : State) : FrameStatus × State :=
  if s.device.guards = false then (.refused, s)
  else if (s.slot i).pendingForce.isSome then (.busy, s)
  else if (s.slot i).state = .off ∨ (s.slot i).disableReq = true then (.ok, s.endForce i .slotOff)
  else if f.isCall = true ∧ (s.slot i).state = .unbound then (.ok, s.endForce i .notBound)
  else (.ok, acceptForce s i f)

/-- A write of CANCEL judged (R153). -/
def cancelCommand (i : Slot) (s : State) : FrameStatus × State :=
  match (s.slot i).pendingForce with
  | some _ =>
    let t := (s.setSlot i { s.slot i with pendingForce := none }).endForce i .cancelled
    (.ok, { t with mgmt := { t.mgmt with cancelAnswer := .cancelled, cancelSlot := i } })
  | none => (.ok, { s with mgmt := { s.mgmt with cancelAnswer := .tooLate, cancelSlot := i } })

end Sys2Proof.Machine
end

