-- ==== Sys2Proof/Machine/Intake.lean ====
section
/-! DEFINITION. The upstream port (chapter 2): the checks at arrival, the intake queues, and the meanings of REQUEST_ARRIVAL and COMPLETION_SEND. -/

namespace Sys2Proof.Machine

/-- A tag of a slot is in use (R28): by a queued request of the slot or by an outstanding entry. -/
def State.tagInUse (s : State) (i : Slot) (t : Tag) : Bool :=
  (s.queues i).all.any (fun r => decide (r.tag = t)) ||
    s.outstanding.any fun o => decide (o.slot = i) && decide (o.tag = t)

/-- The queue of a lane. -/
def Intake.lane (q : Intake) (l : Lane) : List Request :=
  match l with
  | .regular => q.regular
  | .priority => q.priority

/-- The places of a lane's queue (R30). -/
def lanePlaces (l : Lane) : Nat :=
  match l with
  | .regular => Config.regularPlaces
  | .priority => Config.priorityPlaces

/-- A request placed at the tail of the queue of its lane (R30). -/
def Intake.push (q : Intake) (r : Request) : Intake :=
  match r.lane with
  | .regular => { q with regular := q.regular ++ [r] }
  | .priority => { q with priority := q.priority ++ [r] }

/-- The five checks at arrival, in order (R26, R29); none is an admitted request. -/
def State.refusal (s : State) (r : Request) : Option FaultKind :=
  let i := r.initiator
  if malformed r then some .malformed
  else if s.tagInUse i r.tag then some .tagReuse
  else if (s.slot i).state = .off ∨ (s.slot i).disableReq = true then some .slotOff
  else if (s.slot i).state = .unbound ∧ s.device.guards = true then some .unboundSlot
  else if lanePlaces r.lane ≤ ((s.queues i).lane r.lane).length then some .queueOverrun
  else none

/-- The arrival of a request (R26, R30, R33). -/
def arrive (s : State) (r : Request) : State :=
  match s.refusal r with
  | some k =>
    (s.form (answerOf r .unsupported)).logFault (intakeFault r k (s.contextOf r.initiator))
  | none => s.setQueues r.initiator ((s.queues r.initiator).push r)

/-- REQUEST_ARRIVAL (R26).  While the reset input is held the U-port takes no arrival: the request
waits at the interconnect (R45, log entry 11). -/
def execRequestArrival (r : Request) (s : State) : Host.Outcome State Fault Refusal :=
  finish (if s.resetHeld then { s with presented := s.presented ++ [r] } else arrive s r)

/-- The next formed completion sent (R35). -/
def sendCompletion (s : State) : State :=
  match s.completions with
  | [] => s
  | c :: cs => { s with completions := cs, sent := some c }

/-- COMPLETION_SEND (R35). -/
def execCompletionSend (s : State) : Host.Outcome State Fault Refusal :=
  finish (sendCompletion s)

end Sys2Proof.Machine
end

