-- ==== Sys2Proof/Machine/Resets.lean ====
section
/-! DEFINITION. Device reset and power-on reset (10.4), and the meanings of RESET_INPUT and RESET_INPUT_RELEASE. -/

namespace Sys2Proof.Machine

/-- The ABORTED completion of an outstanding request (R34, R45). -/
def abortOutstanding (o : Outstanding) : Completion :=
  { initiator := o.slot, tag := o.tag, status := .aborted, firstFailing := some 0,
    data := zeroData o.op o.length }

/-- The ABORTED completions of a device reset, in the order formed (R45). -/
def State.abortCompletions (s : State) : List Completion :=
  s.outstanding.map abortOutstanding ++
    allSlots.flatMap fun i => (s.queues i).all.map fun r => answerOf r .aborted

/-- A slot's state after a device reset, by its SLOT_ENABLE bit (R18). -/
def resetSlotState (enable : BitVec 16) (i : Nat) : SlotState :=
  if enable.getLsbD i then .unbound else .off

/-- The management registers after a device reset (R170, R175). -/
def Mgmt.deviceReset (m : Mgmt) : Mgmt :=
  { m with
    slotSelect := 0
    cancelAnswer := .none
    cancelSlot := 0
    snapshot := Snapshot.ofReset (m.slotEnable.getLsbD 0)
    sticky := 0 }

/-- A device reset (R18, R23, R45, R87, R94, R116, R166, R170, R176, R180). -/
def deviceReset (s : State) : State :=
  { State.reset with
    pending := s.pending
    resetHeld := s.resetHeld
    timer := { now := s.timer.now, count := 0, running := false }
    presented := s.presented
    completions := s.completions ++ s.abortCompletions
    sent := s.sent
    slots := Vector.ofFn fun i => SlotRecord.fresh (resetSlotState s.mgmt.slotEnable i.val)
    pPool := s.pPool.retireAll
    aPool := s.aPool.retireAll
    pOut := s.pOut
    aOut := s.aOut
    link := s.link
    mgmt := s.mgmt.deviceReset
    freeCount := s.freeCount }

/-- RESET judged: taken in any device state (R170). -/
def resetCommand (s : State) : FrameStatus × State := (.ok, deviceReset s)

/-- RESET_INPUT (R170): a device reset, held while the input stays active. -/
def execResetInput (s : State) : Host.Outcome State Fault Refusal :=
  finish (deviceReset { s with resetHeld := true })

/-- The release of the reset input (R45, R170): the requests presented meanwhile arrive, oldest first. -/
def releaseReset (s : State) : State :=
  s.presented.foldl arrive { s with resetHeld := false, presented := [] }

/-- RESET_INPUT_RELEASE (R170). -/
def execResetInputRelease (s : State) : Host.Outcome State Fault Refusal :=
  finish (releaseReset s)

/-- The receiver after a power-on reset (R173): a frame is abandoned, and chip select awaited. -/
def Receiver.abandoned (r : Receiver) : Receiver :=
  match r with
  | .boundary => .boundary
  | .inFrame _ _ => .awaitDeselect
  | .complete => .awaitDeselect
  | .awaitDeselect => .awaitDeselect

/-- A power-on reset (R46, R88, R171): all of State.reset but the commands that wait, the reset input's
level and what is presented behind it (log entry 12), the reference timebase (log entry 3), the
free-value counter, and the wait of the SPI receiver (R173). -/
def powerOnReset (s : State) : State :=
  { State.reset with
    pending := s.pending
    resetHeld := s.resetHeld
    timer := { now := s.timer.now, count := 0, running := false }
    presented := s.presented
    link := { State.reset.link with receiver := s.link.receiver.abandoned }
    freeCount := s.freeCount }

end Sys2Proof.Machine
end

