-- ==== Sys2Proof/Machine/SlotControl.lean ====
section
/-! DEFINITION. Slot enable and disable (chapter 9.2): the events of the bits of SLOT_ENABLE. -/

namespace Sys2Proof.Machine

/-- An OFF slot made UNBOUND, or its BIND started (R156). -/
def enableOff (s : State) (i : Slot) : State :=
  if s.device = .running ∧ s.bootOf i ≠ 0 then
    conclude
      (endDraining
        (s.setSlot i
          { s.slot i with state := .draining, switch := some (SwitchRec.new .enable .bind) }) i) i
  else s.setSlotState i .unbound

/-- An enable of a slot (R156, R157): a requested disable is withdrawn, or an OFF slot is enabled. -/
def enableSlot (s : State) (i : Slot) : State :=
  if (s.slot i).disableReq then s.setSlot i { s.slot i with disableReq := false }
  else if (s.slot i).state = .off then enableOff s i
  else s

/-- A pending force ended by a disable (R152, R155). -/
def endPending (s : State) (i : Slot) : State :=
  match (s.slot i).pendingForce with
  | some _ => (s.setSlot i { s.slot i with pendingForce := none }).endForce i .slotOff
  | none => s

/-- A disable of a slot (R43, R155): its queues are answered and the held mark ends, its pending force
ends, and the disable completes or is requested. -/
def disableSlot (s : State) (i : Slot) : State :=
  let t := s.answerDisabledQueues i
  let u := endPending (t.setSlot i { t.slot i with held := false }) i
  if (u.slot i).state.inSwitch then u.setSlot i { u.slot i with disableReq := true }
  else completeDisable u i

/-- The event of one slot's changed bit (9.2). -/
def slotBitChanged (v : BitVec 16) (s : State) (i : Slot) : State :=
  if v.getLsbD i.val then enableSlot s i else disableSlot s i

/-- The slots whose bit a write changes (9.2). -/
def State.changedSlots (s : State) (v : BitVec 16) : List Slot :=
  allSlots.filter fun i => v.getLsbD i.val != s.mgmt.slotEnable.getLsbD i.val

/-- A write of SLOT_ENABLE (R155, R156, R175): the changed bits are taken in a free order (log
entry 4). -/
def slotEnableCommand (v : BitVec 16) (s : State) : FrameStatus × State :=
  (.ok,
    (freeOrder s.freeCount (s.changedSlots v)).foldl (slotBitChanged v)
      ({ s with mgmt := { s.mgmt with slotEnable := v } }.spendFree 1))

/-- SLOT_ENABLE with one slot's bit set. -/
def State.enableWith (s : State) (i : Slot) : BitVec 16 :=
  s.mgmt.slotEnable ||| (1#16 <<< i.val)

/-- SLOT_ENABLE with one slot's bit clear. -/
def State.enableWithout (s : State) (i : Slot) : BitVec 16 :=
  s.mgmt.slotEnable &&& ~~~(1#16 <<< i.val)

end Sys2Proof.Machine
end

