-- ==== Sys2Proof/Machine/Link.lean ====
section
/-! DEFINITION. The management link (chapter 11): register writes judged by index, the effects of register reads, the bytes of frames, chip select, and the meanings of the rows that are frames or bound them. -/

namespace Sys2Proof.Machine

/-! ### Registers written (R175) -/

/-- LOG_RESTART (R177): the word counter to 0, nothing popped. -/
def logRestartCommand (s : State) : FrameStatus × State :=
  (.ok, { s with log := { s.log with word := 0 } })

/-- A write of RESPONSE_LIMIT (R82, R184): judged on all 32 bits. -/
def responseLimitCommand (v : Word) (s : State) : FrameStatus × State :=
  if v.toNat ≤ 4095 then (.ok, limitWritten s (v.setWidth 12)) else (.refused, s)

/-- A write of NOTICE_STATUS (R180): each sticky bit written as 1 is cleared. -/
def noticeStatusCommand (v : Word) (s : State) : FrameStatus × State :=
  (.ok, { s with mgmt := { s.mgmt with sticky := s.mgmt.sticky &&& ~~~(v.setWidth 3) } })

/-- A write of NOTICE_ENABLE (R175, R181); the higher bits are ignored (R184). -/
def noticeEnableCommand (v : Word) (s : State) : FrameStatus × State :=
  (.ok, { s with mgmt := { s.mgmt with enables := v.setWidth 4 } })

/-- A write of NOTICE_THRESHOLD (R175): 1..32, judged on all 32 bits. -/
def noticeThresholdCommand (v : Word) (s : State) : FrameStatus × State :=
  if 1 ≤ v.toNat ∧ v.toNat ≤ 32 then
    (.ok, { s with mgmt := { s.mgmt with threshold := v.toNat } })
  else (.refused, s)

/-- A write of SLOT_SELECT (R175): 0..15, judged on all 32 bits. -/
def slotSelectCommand (v : Word) (s : State) : FrameStatus × State :=
  if h : v.toNat < 16 then (.ok, { s with mgmt := { s.mgmt with slotSelect := ⟨v.toNat, h⟩ } })
  else (.refused, s)

/-- A write of COMMAND (R175, R184): the code is in bits 7..0. -/
def commandWritten (v : Word) (s : State) : FrameStatus × State :=
  match (v.extractLsb' 0 8).toNat with
  | 1 => startCommand s
  | 2 => resetCommand s
  | 3 => quiesceCommand s
  | 4 => resumeCommand s
  | 5 => logRestartCommand s
  | _ => (.refused, s)

/-- The slot a register value names in bits 3..0. -/
def slotField (v : Word) : Slot := (v.extractLsb' 0 4).toFin

/-- A write of FORCE (R149, 12.5): a kind code that names none is REFUSED. -/
def forceWritten (v : Word) (s : State) : FrameStatus × State :=
  match (v.extractLsb' 4 4).toNat with
  | 1 =>
    forceCommand (slotField v)
      (.call { group := v.extractLsb' 8 8, entry := v.extractLsb' 16 8 }) s
  | 2 => forceCommand (slotField v) .rebind s
  | _ => (.refused, s)

/-- A write frame judged by its register index (R174, R175). -/
def registerWritten (index : BitVec 16) (v : Word) (s : State) : FrameStatus × State :=
  match index.toNat with
  | 0x02 => (.ok, { s with mgmt := { s.mgmt with rootLow := v } })
  | 0x03 => (.ok, { s with mgmt := { s.mgmt with rootHigh := v.setWidth 8 } })
  | 0x04 => commandWritten v s
  | 0x05 => slotEnableCommand (v.setWidth 16) s
  | 0x06 => responseLimitCommand v s
  | 0x07 => forceWritten v s
  | 0x08 => cancelCommand (slotField v) s
  | 0x09 => slotSelectCommand v s
  | 0x10 => noticeStatusCommand v s
  | 0x11 => noticeEnableCommand v s
  | 0x12 => noticeThresholdCommand v s
  | 0x00 | 0x01 | 0x0A | 0x0B | 0x0C | 0x0D | 0x0E | 0x0F => (.refused, s)
  | _ => (.badIndex, s)

/-! ### Registers read (R173, R174, R177, R179) -/

/-- Byte 3 of a read (R173): SLOT_INFO word 0 takes its snapshot (R179), and a LOG_DATA read watches
for records dropped from here on (R177). -/
def readTaken (n : BitVec 16) (s : State) : State :=
  match n.toNat with
  | 0x0A => { s with mgmt := { s.mgmt with snapshot := s.selectedSnapshot } }
  | 0x0F => { s with log := { s.log with dropped := false } }
  | _ => s

/-- The side effect of a LOG_DATA read on the log, at byte 7 (R177). -/
def FaultLog.advance (l : FaultLog) : FaultLog :=
  match l.records with
  | [] => l
  | _ :: rest =>
    if l.word = 3 then
      { records := rest, overrun := l.overrun && l.dropped, word := 0, dropped := l.dropped }
    else { l with word := l.word + 1 }

/-- Byte 7 of a read (R173, R174): its side effect, and OK where the index names a register. -/
def readEnded (n : BitVec 16) (s : State) : FrameStatus × State :=
  match s.readRegister n with
  | none => (.badIndex, s)
  | some _ => (.ok, if n.toNat = 0x0F then { s with log := s.log.advance } else s)

/-! ### The bytes of a frame (R172, 12.5) -/

/-- The command bytes of a read and of a write. -/
def readByte : Byte := 0x3A
def writeByte : Byte := 0x5C

/-- The register index in bytes 2 and 3 of a frame, high byte first. -/
def frameIndex (f : List Byte) : BitVec 16 := f.getD 1 0 ++ f.getD 2 0

/-- The register value in bytes 4 to 7 of a frame, most significant byte first. -/
def frameValue (f : List Byte) : Word := f.getD 3 0 ++ f.getD 4 0 ++ f.getD 5 0 ++ f.getD 6 0

/-- The bytes a controller clocks to read a register; what it sends in bytes 4 to 8 is ignored. -/
def readFrame (n : BitVec 16) : List Byte :=
  [readByte, n.extractLsb' 8 8, n.extractLsb' 0 8, 0, 0, 0, 0, 0]

/-- The bytes a controller clocks to write a register; what it sends in byte 8 is ignored. -/
def writeFrame (n : BitVec 16) (v : Word) : List Byte :=
  [writeByte, n.extractLsb' 8 8, n.extractLsb' 0 8, v.extractLsb' 24 8, v.extractLsb' 16 8,
    v.extractLsb' 8 8, v.extractLsb' 0 8, 0]

/-- The byte the device drives as byte `n` of the latest frame (R172): the value in bytes 4 to 7, which
is 0 for a write and for an index that names no register, the status in byte 8 once it is judged, and
00h after byte 8 (R173).  Bytes are numbered from 1.  In bytes 1 to 3, where R172 names the controller
alone, the manual states no byte of the device, and this is none (log entry 29). -/
def Link.drives (l : Link) (n : Nat) : Option Byte :=
  match n with
  | 0 | 1 | 2 | 3 => none
  | 4 => some (l.value.extractLsb' 24 8)
  | 5 => some (l.value.extractLsb' 16 8)
  | 6 => some (l.value.extractLsb' 8 8)
  | 7 => some (l.value.extractLsb' 0 8)
  | 8 => l.status.map (·.code)
  | _ => some 0

/-- Byte 3 of a frame is complete (R173): a read takes its value here, 0 where the index names no
register. -/
def atByte3 (f : List Byte) (s : State) : State × Word :=
  if f.head? = some readByte then
    (readTaken (frameIndex f) s, (s.readRegister (frameIndex f)).getD 0)
  else (s, 0)

/-- Byte 7 of a frame is complete (R173, R174): a write takes effect, a read makes its side effects,
and a frame of another command byte is REFUSED. -/
def atByte7 (f : List Byte) (s : State) : FrameStatus × State :=
  if f.head? = some writeByte then registerWritten (frameIndex f) (frameValue f) s
  else if f.head? = some readByte then readEnded (frameIndex f) s
  else (.refused, s)

/-- A frame of which the bytes `f` are complete and whose byte 3 took `v` goes on with the bytes `bs`
(R173).  The events of byte 3 and of byte 7 are made where these bytes complete them, and bytes past
the eighth are ignored. -/
def clockFrame (s : State) (f : List Byte) (v : Word) (bs : List Byte) : State :=
  let g := f ++ bs
  let a := if f.length < 3 ∧ 3 ≤ g.length then atByte3 g s else (s, v)
  let b := if f.length < 7 ∧ 7 ≤ g.length then
      ((some (atByte7 g a.1).1, (atByte7 g a.1).2) : Option FrameStatus × State)
    else (none, a.1)
  { b.2 with
    link :=
      { receiver := if 8 ≤ g.length then .complete else .inFrame g a.2, value := a.2
        status := b.1 } }

/-- Bytes clocked on the link as the receiver stands (R173): they begin a frame or go on with it; past
byte 8, and while the receiver waits for chip select, they are ignored. -/
def clockBytes (bs : List Byte) (s : State) : State :=
  if bs = [] then s
  else
    match s.link.receiver with
    | .boundary => clockFrame s [] 0 bs
    | .inFrame f v => clockFrame s f v bs
    | .complete => s
    | .awaitDeselect => s

/-- Chip select goes low (R173): a frame begins, with no byte of it complete.  In a frame, and while the
receiver waits for chip select to go high, it is low already. -/
def select (s : State) : State :=
  match s.link.receiver with
  | .boundary => { s with link := { s.link with receiver := .inFrame [] 0 } }
  | .inFrame _ _ => s
  | .complete => s
  | .awaitDeselect => s

/-- Chip select goes high (R173): the frame ends, or is discarded where it was cut short, and the
receiver stands at the frame boundary. -/
def deselect (s : State) : State :=
  { s with link := { s.link with receiver := .boundary } }

/-- A frame clocked whole (R172, R173).  One clocked inside a frame of which part is complete is
another controller's (R178, log entry 9): it does what it does at the frame boundary, and the frame it
overlaps stays as it was.  Past byte 8, and while the receiver waits for chip select, the bytes are
ignored. -/
def wholeFrame (bs : List Byte) (s : State) : State :=
  match s.link.receiver with
  | .boundary => clockFrame s [] 0 bs
  | .inFrame f v =>
    let t := clockFrame (deselect s) [] 0 bs
    { t with link := { t.link with receiver := .inFrame f v } }
  | .complete => s
  | .awaitDeselect => s

/-! ### The rows of COMMAND (R175, 12.6) -/

/-- START (R163): code 1 written to COMMAND. -/
def execStart (s : State) : Host.Outcome State Fault Refusal :=
  finish (wholeFrame (writeFrame 0x04 1) s)

/-- RESET (R170): code 2 written to COMMAND. -/
def execReset (s : State) : Host.Outcome State Fault Refusal :=
  finish (wholeFrame (writeFrame 0x04 2) s)

/-- QUIESCE (R158): code 3 written to COMMAND. -/
def execQuiesce (s : State) : Host.Outcome State Fault Refusal :=
  finish (wholeFrame (writeFrame 0x04 3) s)

/-- RESUME (R159): code 4 written to COMMAND. -/
def execResume (s : State) : Host.Outcome State Fault Refusal :=
  finish (wholeFrame (writeFrame 0x04 4) s)

/-- LOG_RESTART (R177): code 5 written to COMMAND. -/
def execLogRestart (s : State) : Host.Outcome State Fault Refusal :=
  finish (wholeFrame (writeFrame 0x04 5) s)

/-! ### The rows of FORCE, CANCEL and SLOT_ENABLE -/

/-- A slot as the 4-bit field of a register (12.5). -/
def slotBits (i : Slot) : BitVec 4 := BitVec.ofFin i

/-- FORCE_CALL (R149): slot, kind 1, group and entry written to FORCE. -/
def execForceCall (i : Slot) (group entry : Byte) (s : State) : Host.Outcome State Fault Refusal :=
  finish (wholeFrame (writeFrame 0x07 (0#8 ++ entry ++ group ++ 1#4 ++ slotBits i)) s)

/-- FORCE_REBIND (R149): slot and kind 2 written to FORCE. -/
def execForceRebind (i : Slot) (s : State) : Host.Outcome State Fault Refusal :=
  finish (wholeFrame (writeFrame 0x07 (0#8 ++ 0#8 ++ 0#8 ++ 2#4 ++ slotBits i)) s)

/-- CANCEL (R153): the slot written to CANCEL. -/
def execCancel (i : Slot) (s : State) : Host.Outcome State Fault Refusal :=
  finish (wholeFrame (writeFrame 0x08 (0#28 ++ slotBits i)) s)

/-- SLOT_ENABLE (R156): a write that sets the slot's bit and leaves the others (log entry 18). -/
def execSlotEnable (i : Slot) (s : State) : Host.Outcome State Fault Refusal :=
  finish (wholeFrame (writeFrame 0x05 (0#16 ++ s.enableWith i)) s)

/-- SLOT_DISABLE (R155): a write that clears the slot's bit and leaves the others (log entry 18). -/
def execSlotDisable (i : Slot) (s : State) : Host.Outcome State Fault Refusal :=
  finish (wholeFrame (writeFrame 0x05 (0#16 ++ s.enableWithout i)) s)

/-! ### The rows of the other registers -/

/-- RESPONSE_LIMIT_WRITE (R82). -/
def execResponseLimitWrite (v : Word) (s : State) : Host.Outcome State Fault Refusal :=
  finish (wholeFrame (writeFrame 0x06 v) s)

/-- NOTICE_STATUS_CLEAR (R180). -/
def execNoticeStatusClear (v : Word) (s : State) : Host.Outcome State Fault Refusal :=
  finish (wholeFrame (writeFrame 0x10 v) s)

/-- NOTICE_ENABLE_WRITE (R181). -/
def execNoticeEnableWrite (v : Word) (s : State) : Host.Outcome State Fault Refusal :=
  finish (wholeFrame (writeFrame 0x11 v) s)

/-- NOTICE_THRESHOLD_WRITE (R181). -/
def execNoticeThresholdWrite (v : Word) (s : State) : Host.Outcome State Fault Refusal :=
  finish (wholeFrame (writeFrame 0x12 v) s)

/-- REGISTER_WRITE (R175), of any index (log entry 17). -/
def execRegisterWrite (index : BitVec 16) (v : Word) (s : State) :
    Host.Outcome State Fault Refusal :=
  finish (wholeFrame (writeFrame index v) s)

/-- The first three bytes of a LOG_DATA read. -/
def logHeader : List Byte := [readByte, 0x00, 0x0F]

/-- A LOG_DATA read as far as its frame comes (log entry 8).  Its first three bytes begin a frame, in
the place of one that stands open (log entry 28); its bytes 4 to 8 go on with the LOG_DATA read in
progress, and without one nothing happens. -/
def readLog (x : ReadExtent) (s : State) : State :=
  match x, s.link.receiver with
  | .whole, _ => wholeFrame (readFrame 0x0F) s
  | .toByte3, .boundary => clockFrame s [] 0 logHeader
  | .toByte3, .inFrame _ _ => clockFrame s [] 0 logHeader
  | .toByte3, .complete => s
  | .toByte3, .awaitDeselect => s
  | .byte7, .inFrame f v => if f = logHeader then clockFrame s f v [0, 0, 0, 0, 0] else s
  | .byte7, .boundary => s
  | .byte7, .complete => s
  | .byte7, .awaitDeselect => s

/-- LOG_DATA_READ (R177). -/
def execLogDataRead (x : ReadExtent) (s : State) : Host.Outcome State Fault Refusal :=
  finish (readLog x s)

/-- SLOT_INFO_READ (R179): a read of index 0Ah to 0Dh. -/
def execSlotInfoRead (n : Fin 4) (s : State) : Host.Outcome State Fault Refusal :=
  finish (wholeFrame (readFrame (0x0A + BitVec.ofNat 16 n.val)) s)

/-- BAD_COMMAND_BYTE (R173): a frame of this command byte, its other bytes 00h. -/
def execBadCommandByte (byte : Byte) (s : State) : Host.Outcome State Fault Refusal :=
  finish (wholeFrame [byte, 0, 0, 0, 0, 0, 0, 0] s)

/-! ### Chip select and power-on -/

/-- CHIP_SELECT_HIGH (R173): the bytes of the frame that no other command has carried, and chip select
high (log entry 23). -/
def execChipSelectHigh (s : State) (bytes : List Byte := []) : Host.Outcome State Fault Refusal :=
  finish (deselect (clockBytes bytes s))

/-- The frame that a power-on reset is taken in (R173), when no other command has begun it: chip select
low, and its bytes complete. -/
def frameBegun (frame : Option (List Byte)) (s : State) : State :=
  match frame with
  | none => s
  | some bytes => clockBytes bytes (select s)

/-- POWER_ON_RESET (R171), taken in this frame (R173, log entry 23). -/
def execPowerOnReset (s : State) (frame : Option (List Byte) := none) :
    Host.Outcome State Fault Refusal :=
  finish (powerOnReset (frameBegun frame s))

end Sys2Proof.Machine
end

