-- ==== Sys2Proof/Machine/Dispatch.lean ====
section
/-! DEFINITION. The dispatch: one arm per command, each a direct call of its meaning. -/

namespace Sys2Proof.Machine

def exec (i : Instr) (s : State) : Host.Outcome State Fault Refusal :=
  match i with
  | .requestArrival r => Sys2Proof.Machine.execRequestArrival r s
  | .decodeAttempt => Sys2Proof.Machine.execDecodeAttempt s
  | .completionSend => Sys2Proof.Machine.execCompletionSend s
  | .auxPortIssue => Sys2Proof.Machine.execAuxPortIssue s
  | .primaryPortIssue => Sys2Proof.Machine.execPrimaryPortIssue s
  | .responseArrival port id status data => Sys2Proof.Machine.execResponseArrival port id status data s
  | .responseLimitExpiry port id => Sys2Proof.Machine.execResponseLimitExpiry port id s
  | .epochExpiry => Sys2Proof.Machine.execEpochExpiry s
  | .start => Sys2Proof.Machine.execStart s
  | .reset => Sys2Proof.Machine.execReset s
  | .quiesce => Sys2Proof.Machine.execQuiesce s
  | .resume => Sys2Proof.Machine.execResume s
  | .logRestart => Sys2Proof.Machine.execLogRestart s
  | .forceCall slot group entry => Sys2Proof.Machine.execForceCall slot group entry s
  | .forceRebind slot => Sys2Proof.Machine.execForceRebind slot s
  | .cancel slot => Sys2Proof.Machine.execCancel slot s
  | .slotEnable slot => Sys2Proof.Machine.execSlotEnable slot s
  | .slotDisable slot => Sys2Proof.Machine.execSlotDisable slot s
  | .responseLimitWrite value => Sys2Proof.Machine.execResponseLimitWrite value s
  | .noticeStatusClear value => Sys2Proof.Machine.execNoticeStatusClear value s
  | .noticeEnableWrite value => Sys2Proof.Machine.execNoticeEnableWrite value s
  | .noticeThresholdWrite value => Sys2Proof.Machine.execNoticeThresholdWrite value s
  | .logDataRead extent => Sys2Proof.Machine.execLogDataRead extent s
  | .slotInfoRead word => Sys2Proof.Machine.execSlotInfoRead word s
  | .registerWrite index value => Sys2Proof.Machine.execRegisterWrite index value s
  | .badCommandByte byte => Sys2Proof.Machine.execBadCommandByte byte s
  | .resetInput => Sys2Proof.Machine.execResetInput s
  | .resetInputRelease => Sys2Proof.Machine.execResetInputRelease s
  | .powerOnReset frame => Sys2Proof.Machine.execPowerOnReset s frame
  | .chipSelectHigh bytes => Sys2Proof.Machine.execChipSelectHigh s bytes

end Sys2Proof.Machine
end

