-- ==== Sys2Proof/Machine/Step.lean ====
section
/-! DEFINITION. One step: the command at the front of the queue, or the tick on an empty queue. -/

namespace Sys2Proof.Machine

/-- One step: the front command is taken from the queue and executed; with no command waiting the
reference timebase moves on (log entry 1). -/
def step (s : State) : Host.Outcome State Fault Refusal :=
  match s.pending with
  | [] => finish (idle s)
  | c :: cs => exec c { s with pending := cs }

/-- The command that a word spells put at the front of the queue; the state unchanged when the word
spells none. -/
def State.withFetchWord (s : State) (nbits w : Nat) : State :=
  match decodeTableWord nbits w with
  | some c => { s with pending := c :: s.pending }
  | none => s

end Sys2Proof.Machine
end

