-- ==== Sys2Proof/Safety.lean ====
section
/-! DEFINITION. The words in which the statements are written: the manual's conditions as propositions, the effects several statements share, and the invariants of the block. -/

namespace Sys2Proof.Machine

/-! ### Arrival (R26 to R30) -/

/-- The requests queued for a slot, in either lane. -/
def State.queued (s : State) (i : Slot) : List Request :=
  (s.queues i).priority ++ (s.queues i).regular

/-- Check 1 of R26 fails (R27). -/
def FormFails (r : Request) : Prop :=
  r.length = 0 ∨ 256 < r.length ∨
    r.addr.toNat / 4096 ≠ (r.addr.toNat + r.length - 1) / 4096

/-- Check 2 of R26 fails (R28). -/
def TagTaken (s : State) (r : Request) : Prop :=
  (∃ q ∈ s.queued r.initiator, q.tag = r.tag) ∨
    ∃ o ∈ s.outstanding, o.slot = r.initiator ∧ o.tag = r.tag

/-- Check 3 of R26 fails. -/
def SlotShut (s : State) (r : Request) : Prop :=
  (s.slot r.initiator).state = .off ∨ (s.slot r.initiator).disableReq = true

/-- The device is RUNNING, QUIESCING or QUIESCED. -/
abbrev Guarding (s : State) : Prop :=
  s.device = .running ∨ s.device = .quiescing ∨ s.device = .quiesced

/-- Check 4 of R26 fails. -/
def UnboundShut (s : State) (r : Request) : Prop :=
  (s.slot r.initiator).state = .unbound ∧ Guarding s

/-- Check 5 of R26 fails (R30). -/
def QueueFull (s : State) (r : Request) : Prop :=
  (r.lane = .regular ∧ 4 ≤ (s.queues r.initiator).regular.length) ∨
    (r.lane = .priority ∧ 2 ≤ (s.queues r.initiator).priority.length)

/-- A completion with first failing granule 0 and, for a READ, all bytes 00h (R34). -/
def zeroCompletion (slot : Slot) (tag : Tag) (op : Op) (length : Nat) (st : CompletionStatus) :
    Completion :=
  { initiator := slot, tag := tag, status := st, firstFailing := some 0,
    data := if op = .read then some (List.replicate length 0) else none }

/-- The record address of a slot's binding, absent in DIRECT (R33, R83). -/
def State.boundRecord (s : State) (i : Slot) : Option Addr :=
  if s.device = .direct then none else (s.slot i).binding.map (·.record)

/-- A request refused at its arrival (R26, R33, R34): its completion formed, its record logged. -/
def State.refused (s : State) (r : Request) (k : FaultKind) : State :=
  { s with
    completions := s.completions ++ [zeroCompletion r.initiator r.tag r.op r.length .unsupported]
    log := s.log.join
      { kind := k, slot := r.initiator, context := s.boundRecord r.initiator,
        request := some r.addr, target := none, detail := none } }

/-! ### Decode (R36 to R68) -/

/-- A request is its slot's candidate (R37). -/
def IsCandidate (s : State) (i : Slot) (r : Request) : Prop :=
  (s.queues i).priority.head? = some r ∨
    (s.queues i).priority = [] ∧ (s.slot i).held = false ∧ (s.queues i).regular.head? = some r

/-- A slot has a decodable candidate (R38). -/
def IsDecodable (s : State) (i : Slot) : Prop :=
  (s.device = .direct ∧ (s.slot i).state ≠ .off ∨
      s.device = .running ∧ (s.slot i).state = .active) ∧
    s.outstanding.length < 64 ∧ ∃ r, IsCandidate s i r

/-- The slot that the next attempt takes, and its candidate (R36): no slot from the pointer up to it,
15 going on to 0, has a decodable candidate. -/
structure Chosen (s : State) (i : Slot) (r : Request) : Prop where
  candidate : IsCandidate s i r
  decodable : IsDecodable s i
  first : ∀ k : Fin 16, k < i - s.pointer → ¬IsDecodable s (s.pointer + k)

/-- A window decides a granule (R49): it is the first of the committed list to cover the start. -/
def DecidedBy (s : State) (i : Slot) (r : Request) (j : Nat) (w : Window) : Prop :=
  ∃ before after, s.committedList i = before ++ w :: after ∧
    w.covers (granuleStart r.addr j) = true ∧
    ∀ v ∈ before, v.covers (granuleStart r.addr j) = false

/-- The lane check of a window passes (R52). -/
def LaneOk (w : Window) (r : Request) : Prop :=
  r.lane = .priority → w.priorityOk = true ∧ w.watch = false

/-- The threshold check of a window passes at a level (R53). -/
def LevelOk (w : Window) (r : Request) (level : Level) : Prop :=
  ∃ m : Level, (if r.op = .read then w.readThr else w.writeThr) = .upTo m ∧ level ≤ m

/-- A target address lies in the protected table region (R54). -/
def InRegion (root : Option RootCopy) (t : Addr) : Prop :=
  ∃ c, root = some c ∧ c.regionBase.toNat ≤ t.toNat ∧
    t.toNat < c.regionBase.toNat + c.regionPages * 4096

/-- The guard of R54 stops a write to a target address. -/
def GuardStops (root : Option RootCopy) (b : Binding) (r : Request) (t : Addr) : Prop :=
  r.op = .write ∧ b.level ≠ 0 ∧ InRegion root t

/-- The memory port of a window that is no hole (R11). -/
def WindowPort.memory (p : WindowPort) : Option MemPort :=
  match p with
  | .hole => none
  | .primary => some .primary
  | .aux => some .aux

/-- The budget check applies (R90). -/
abbrev BudgetChecked (s : State) (r : Request) (b : Binding) : Prop :=
  s.device = .running ∧ r.lane = .regular ∧ s.epochLength ≠ 0 ∧ b.epochBudget ≠ 0

/-- A budget count is admitted (R91), or the check does not apply. -/
def BudgetAdmits (s : State) (r : Request) (b : Binding) (n : Nat) : Prop :=
  BudgetChecked s r b → n ≤ b.remaining ∨ b.remaining = b.epochBudget

/-- The granule work of granule `j` (R48, R56). -/
def workOf (i : Slot) (r : Request) (j : Nat) (p : MemPort) (t : Addr) (watched : Bool) :
    TrackerEntry :=
  { slot := i, tag := r.tag, granule := j, op := r.op, lane := r.lane, port := p, target := t,
    count := granuleBytes r.addr r.length j
    mask := slice r.mask (granuleOffset r.addr j) (granuleBytes r.addr r.length j)
    data := slice r.data (granuleOffset r.addr j) (granuleBytes r.addr r.length j)
    watched := watched, flight := none }

/-- The outstanding entry of a request all of whose granules are issuable (R41). -/
def entryOf (i : Slot) (r : Request) (p : MemPort) (target : Nat → Addr) (data : List Byte) :
    Outstanding :=
  { slot := i, tag := r.tag, op := r.op, lane := r.lane, addr := r.addr, length := r.length,
    granules := (List.range (granuleCount r.addr r.length)).map fun j =>
      { outcome := .issuable (target j) p, settled := none }
    data := data }

/-- A request taken with every granule issuable (R39, R41, R56): it leaves its queue, its entry and its
work are made, and the pointer goes to the next slot. -/
def State.decoded (s : State) (i : Slot) (r : Request) (p : MemPort) (target : Nat → Addr)
    (watched : Bool) (data : List Byte) : State :=
  { s.setQueues i ((s.queues i).pop r.lane) with
    pointer := i + 1
    outstanding := s.outstanding ++ [entryOf i r p target data]
    tracker := s.tracker ++ (List.range (granuleCount r.addr r.length)).map fun j =>
      workOf i r j p (target j) watched
    freeCount := s.freeCount + r.length }

/-- The binding after a taken decode of budget count `n` that denies nothing (R90, R91). -/
def Binding.afterTaken (b : Binding) (s : State) (r : Request) (n : Nat) : Binding :=
  { b with remaining := if BudgetChecked s r b then b.remaining - n else b.remaining }

/-! ### Ports (R71 to R84) -/

/-- A tracker entry is the oldest WAITING granule of a port (R73). -/
def OldestWaiting (s : State) (p : MemPort) (before : List TrackerEntry) (e : TrackerEntry)
    (after : List TrackerEntry) : Prop :=
  s.tracker = before ++ e :: after ∧ e.port = p ∧ e.flight = none ∧
    ∀ x ∈ before, ¬(x.port = p ∧ x.flight = none)

/-- No granule waits for a port. -/
def NoneWaiting (s : State) (p : MemPort) : Prop :=
  ∀ x ∈ s.tracker, ¬(x.port = p ∧ x.flight = none)

/-- The TFU offers an operation (R77). -/
def Offers (s : State) (o : TableOp) (rest : List TableOp) : Prop :=
  s.tfu.inFlight = none ∧ s.tfu.queue = o :: rest

/-- The TFU offers nothing. -/
def OffersNothing (s : State) : Prop :=
  s.tfu.queue = [] ∨ s.tfu.inFlight ≠ none

/-- A granule is the operation issued on a port under an identifier (R78). -/
structure GranuleIssued (s : State) (p : MemPort) (id : IssueId) (before : List TrackerEntry)
    (e : TrackerEntry) (after : List TrackerEntry) : Prop where
  split : s.tracker = before ++ e :: after
  port : e.port = p
  issued : ∃ f, e.flight = some f ∧ f.id = id
  first : ∀ x ∈ before, ¬(x.port = p ∧ ∃ f, x.flight = some f ∧ f.id = id)
  inUse : (s.pool p).get id = .inUse

/-- The outstanding entry of a granule. -/
structure EntryOf (s : State) (e : TrackerEntry) (before : List Outstanding) (o : Outstanding)
    (after : List Outstanding) : Prop where
  split : s.outstanding = before ++ o :: after
  own : o.slot = e.slot ∧ o.tag = e.tag
  first : ∀ x ∈ before, ¬(x.slot = e.slot ∧ x.tag = e.tag)

/-- A settlement of a granule of the slot ends nothing else: no drain of the slot, no start that waits
for the tracker, no quiesce. -/
def EndsNothing (s : State) (i : Slot) : Prop :=
  (s.slot i).state ≠ .draining ∧ s.device ≠ .starting ∧ s.device ≠ .quiescing

/-- An outstanding entry with a granule settled (R79, R80). -/
def Outstanding.settledAs (o : Outstanding) (j : Nat) (st : RespStatus) : Outstanding :=
  { o with granules := o.granules.modify j fun g => { g with settled := some st } }

/-- A granule of an entry is issued and not settled (R41). -/
def Outstanding.unsettledAt (o : Outstanding) (j : Nat) : Prop :=
  ∃ t p, o.granules[j]? = some { outcome := .issuable t p, settled := none }

/-- The tracker entry and the identifier of a settled granule given back (R71, R75). -/
def State.granuleReleased (s : State) (p : MemPort) (id : IssueId) (st : IdState)
    (tracker : List TrackerEntry) : State :=
  { s.setPool p ((s.pool p).put id st) with tracker := tracker }

/-- The fault record of a granule that settles as ERROR (R83). -/
def granuleFault (s : State) (k : FaultKind) (e : TrackerEntry) (o : Outstanding) : FaultRecord :=
  { kind := k, slot := e.slot, context := s.boundRecord e.slot,
    request := some (BitVec.ofNat 40 (firstByte o.addr e.granule)), target := some e.target,
    detail := none }

/-- The age of an operation issued at `time` has reached the response limit (R82), at a count of the
epoch timer short of its end. -/
def LimitReached (s : State) (time : Nat) : Prop :=
  s.mgmt.responseLimit ≠ 0 ∧ time + s.mgmt.responseLimit.toNat ≤ s.timer.now ∧
    (s.timer.running = true → s.timer.count < s.epochLength)

/-- An outstanding entry with a granule settled OK: a READ's bytes placed (R61, R79). -/
def Outstanding.settledOk (o : Outstanding) (e : TrackerEntry) (data : List Byte) : Outstanding :=
  { o.settledAs e.granule .ok with
    data := if o.op = .read then
        o.data.take (granuleOffset o.addr e.granule) ++ data ++
          o.data.drop (granuleOffset o.addr e.granule + e.count)
      else o.data }

/-- The state after the settlement of a granule, before what may follow from it (R72): `rest` is the
tracker without it, `o` the entry of its request as settled, which is completed when none of its
granules is unsettled (R42). -/
def State.granuleSettled (s : State) (p : MemPort) (id : IssueId) (st : IdState) (log : FaultLog)
    (rest : List TrackerEntry) (before : List Outstanding) (o : Outstanding)
    (after : List Outstanding) (short : Nat) : State :=
  { s.granuleReleased p id st rest with
    outstanding := if o.granules.any (·.unsettled) then before ++ o :: after else before ++ after
    completions :=
      if o.granules.any (·.unsettled) then s.completions else s.completions ++ [o.completion]
    log := log
    freeCount := s.freeCount + short }

/-- The command `c` settles the granule `e`, leaving `rest` in the tracker: by an OK response (R79), by
an ERROR response (R80), or by the expiry of its response limit (R82).  `u` is the state of
`State.granuleSettled`. -/
def GranuleSettles (s : State) (c : Instr) (e : TrackerEntry) (rest : List TrackerEntry)
    (st : RespStatus) (u : State) : Prop :=
  ∃ p id before after entriesBefore o entriesAfter,
    GranuleIssued s p id before e after ∧ EntryOf s e entriesBefore o entriesAfter ∧
    rest = before ++ after ∧
    ((∃ data, c = .responseArrival p id .ok data ∧ st = .ok ∧
        (o.op = .read → data.length = e.count) ∧
        u = s.granuleSettled p id .free s.log rest entriesBefore (o.settledOk e data) entriesAfter
          (e.count - data.length)) ∨
      (c = .responseArrival p id .error [] ∧ st = .error ∧
        u = s.granuleSettled p id .free (s.log.join (granuleFault s .memoryError e o)) rest
          entriesBefore (o.settledAs e.granule .error) entriesAfter e.count) ∨
      (c = .responseLimitExpiry p id ∧ st = .error ∧
        (∃ f, e.flight = some f ∧ LimitReached s f.time) ∧
        u = s.granuleSettled p id .retired (s.log.join (granuleFault s .timeout e o)) rest
          entriesBefore (o.settledAs e.granule .error) entriesAfter e.count))

/-! ### Table operations (R77, R131) -/

/-- The TFU's operation in flight is the operation issued on the P-port under an identifier. -/
structure TableIssued (s : State) (id : IssueId) (o : TableOp) : Prop where
  inFlight : ∃ time, s.tfu.inFlight = some { operation := o, flight := { id := id, time := time } }
  inUse : s.pPool.get id = .inUse
  noGranule : ∀ x ∈ s.tracker, ¬(x.port = .primary ∧ ∃ f, x.flight = some f ∧ f.id = id)

/-- The state once the TFU's operation in flight has settled (R77): none in flight, the identifier
back in its pool, and the free bytes of a short read spent (log entry 6). -/
def State.tableSettled (s : State) (id : IssueId) (st : IdState) (short : Nat) : State :=
  { s with
    pPool := s.pPool.put id st
    tfu := { s.tfu with inFlight := none }
    freeCount := s.freeCount + short }

/-- The command `c` settles the TFU's operation in flight failed: by an ERROR response, which frees its
identifier (R81), or by the expiry of its response limit, which retires it (R82). -/
def TableFails (s : State) (id : IssueId) (o : TableOp) (c : Instr) (st : IdState) : Prop :=
  TableIssued s id o ∧
    ((c = .responseArrival .primary id .error [] ∧ st = .free) ∨
      (c = .responseLimitExpiry .primary id ∧ st = .retired ∧
        ∃ f, s.tfu.inFlight = some f ∧ LimitReached s f.flight.time))

/-- The command `c` settles the TFU's write in flight, OK or failed. -/
def WriteSettles (s : State) (id : IssueId) (o : TableOp) (c : Instr) (st : IdState)
    (failed : Bool) : Prop :=
  (TableIssued s id o ∧ o.op = .write ∧ c = .responseArrival .primary id .ok [] ∧ st = .free ∧
      failed = false) ∨
    (TableFails s id o c st ∧ failed = true)

/-- An operation issued on a port under an identifier is in flight: a granule, or the TFU's operation
(R78, R82). -/
def InFlight (s : State) (p : MemPort) (id : IssueId) (f : Flight) : Prop :=
  (∃ before e after, GranuleIssued s p id before e after ∧ e.flight = some f) ∨
    ∃ o, p = .primary ∧ TableIssued s id o ∧ s.tfu.inFlight = some { operation := o, flight := f }

/-- A slot's switch is under way in a slot state, and the device has its root copy where what follows may
read it: to take a pending force, or to leave STARTING. -/
structure Switching (s : State) (i : Slot) (st : SlotState) (sw : SwitchRec) : Prop where
  state : (s.slot i).state = st
  switch : (s.slot i).switch = some sw
  rooted : s.root ≠ none ∨ ((s.slot i).pendingForce = none ∧ s.device ≠ .starting)

/-- The slot's result write of CLOSING (R118, R123). -/
def resultOp (i : Slot) (mailbox : Addr) (c : ResultCode) (depth : Nat) (tag : BitVec 16) : TableOp :=
  { owner := some i, what := .resultWrite, op := .write, target := mailbox + 8, length := 8,
    data := resultWord c depth i tag }

/-- A table read for a slot (R132). -/
def readOp (i : Slot) (what : TableWhat) (target : Addr) (length : Nat) : TableOp :=
  { owner := some i, what := what, op := .read, target := target, length := length, data := [] }

/-- A root record as read passes the checks of R164. -/
def RootPasses (data : List Byte) : Prop :=
  field data 0 2 = 0x52A7 ∧ 1 ≤ field data 2 1 ∧ field data 2 1 ≤ 64 ∧
    field data 8 5 / 8 * 8 + 8 * field data 2 1 ≤ 2 ^ 40 ∧
    (field data 20 4 = 0 ∨
      field data 24 5 % 4096 = 0 ∧ field data 24 5 + field data 20 4 * 4096 ≤ 2 ^ 40)

/-- The root copy made of a root record as read (R166). -/
structure RootCopyOf (data : List Byte) (c : RootCopy) : Prop where
  dirAddr : c.dirAddr = BitVec.ofNat 40 (field data 8 5)
  dirLength : c.dirLength = field data 2 1
  epochLength : c.epochLength = field data 4 2
  fill : c.fill = BitVec.ofNat 32 (field data 16 4)
  regionBase : c.regionBase = BitVec.ofNat 40 (field data 24 5)
  regionPages : c.regionPages = field data 20 4
  boot : ∀ i : Slot, c.boot[i] = BitVec.ofNat 40 (field data (32 + 8 * i.val) 5)

/-- A start that fails with a code (R165). -/
def State.startFails (s : State) (c : StartResult) : State :=
  { s with
    startResult := c, device := .direct
    log := s.log.join
      { kind := .startFault, slot := 0, context := none, request := none, target := none,
        detail := some (.start c) }
    mgmt := { s.mgmt with sticky := s.mgmt.sticky ||| 1#3 } }

/-- The window cache with a slot's STAGED entries released (R23). -/
def State.withoutStaged (s : State) (i : Slot) : Vector CacheEntry 256 :=
  s.cache.map fun e => if e.isStaged i then .free else e

/-- The window cache with a slot's COMMITTED entries released (R23). -/
def State.withoutCommitted (s : State) (i : Slot) : Vector CacheEntry 256 :=
  s.cache.map fun e => if e.isCommitted i then .free else e

/-- The window cache after a commit (R22): the slot's COMMITTED entries FREE, its STAGED entries
COMMITTED at their positions. -/
def State.cacheCommitted (s : State) (i : Slot) : Vector CacheEntry 256 :=
  s.cache.map fun e => if e.isCommitted i then .free else e.toCommitted i

/-- The binding map without a slot's RESERVED entry (R114). -/
def State.withoutReserved (s : State) (i : Slot) : List MapEntry :=
  s.map.filter fun e => !(decide (e.slot = i) && decide (e.role = .reserved))

/-- The binding map without a slot's ACTIVE and STACKED entries (R110, R116). -/
def State.withoutBound (s : State) (i : Slot) : List MapEntry :=
  s.map.filter fun e => !(decide (e.slot = i) && decide (e.role ≠ .reserved))

/-- The saved-area write of a slot's outgoing binding (R3, R134). -/
def savedOp (i : Slot) (b : Binding) : TableOp :=
  { owner := some i, what := .savedWrite, op := .write, target := b.record + 16, length := 16
    data := leBytes 3 b.remaining ++ [0] ++ leBytes 4 b.denials ++ leBytes 4 b.switchIns ++
      [0, 0, 0, 0] }

/-- The header write-back of a record whose header word was read as `header` (R2, R143). -/
def headerOp (i : Slot) (a : Addr) (header : BitVec 64) : TableOp :=
  { owner := some i, what := .headerWrite, op := .write, target := a, length := 8
    data := leBytes 8 (header &&& ~~~(1#64 <<< 16)).toNat }

/-- A record address cannot be claimed (R112): it is in the binding map, or the map is full. -/
abbrev State.recordBusy (s : State) (a : Addr) : Prop :=
  (∃ e ∈ s.map, e.record = a) ∨ 144 ≤ s.map.length

/-- A slot in CLOSING, its record else `r`, with one of its writes queued (R143). -/
def State.closingWith (s : State) (i : Slot) (r : SlotRecord) (sw : SwitchRec) (o : TableOp) :
    State :=
  State.setSlot { s with tfu := { s.tfu with queue := s.tfu.queue ++ [o] } } i
    { r with state := .closing, switch := some sw }

/-- The slot state a switch ends in (R144). -/
def SwitchRec.endsIn (sw : SwitchRec) : SlotState :=
  if sw.result ≠ some .done ∧ (sw.kind = .rebind ∨ sw.kind = .bind) then .unbound else .active

/-- The SWITCH or BIND record of a switch that fails with a code, its slot's record being `r` (R122,
R145). -/
def switchFault (i : Slot) (r : SlotRecord) (sw : SwitchRec) (c : ResultCode) : FaultRecord :=
  match sw.origin with
  | .mailbox =>
    { kind := .switchFault, slot := i, context := r.binding.map (·.record),
      request := sw.mailbox.map (·.request), target := none, detail := some (.result c) }
  | .force =>
    { kind := .switchFault, slot := i, context := r.binding.map (·.record), request := none,
      target := none, detail := some (.result c) }
  | .bind | .enable =>
    { kind := .bindFault, slot := i, context := none, request := none, target := none,
      detail := some (.result c) }

/-- The BIND record of an enable's BIND that fails with a code (R145). -/
def bindFault (i : Slot) (c : ResultCode) : FaultRecord :=
  { kind := .bindFault, slot := i, context := none, request := none, target := none,
    detail := some (.result c) }

/-! The ends of a switch.  Below, `rest` says how the slot of an ended switch, its record in the state
that the switch ends in, comes to rest; `r` is the slot's record, whose slot state and switch record
are not read. -/

/-- The end of a slot's switch (R144): a force's result becomes the last force result and sets FORCE_DONE
(R152), and then the slot comes to rest. -/
def State.switchEndsBy (rest : State → Slot → SlotRecord → State) (s : State) (i : Slot)
    (r : SlotRecord) (sw : SwitchRec) : State :=
  match sw.origin, sw.result with
  | .force, some c =>
    rest { s with mgmt := { s.mgmt with sticky := s.mgmt.sticky ||| 2#3 } } i
      { r with state := sw.endsIn, switch := none, lastForce := some c }
  | _, _ => rest s i { r with state := sw.endsIn, switch := none }

/-- What follows the header write-back, or the commit or failure without one (R123, R126, R143): the
result write with the switch's result, or with PREEMPTED for the mailbox that a force preempted, or,
with no mailbox to write to, the end of the switch. -/
def State.resultOrEndBy (rest : State → Slot → SlotRecord → State) (s : State) (i : Slot)
    (r : SlotRecord) (sw : SwitchRec) : State :=
  match sw.preempted, sw.origin, sw.mailbox, sw.result with
  | some p, _, _, _ =>
    s.closingWith i r sw (resultOp i p.target .preempted r.stack.length p.seqTag)
  | none, .mailbox, some m, some c =>
    s.closingWith i r sw (resultOp i m.target c r.stack.length (sw.seqTag.getD 0))
  | _, _, _, _ => s.switchEndsBy rest i r sw

/-- A switch failed with a code (R142, R143, R145): what its load held is released, its record is logged,
and CLOSING queues its result write, or with none it ends.  Binding, stack and committed windows stay. -/
def State.switchFailedBy (rest : State → Slot → SlotRecord → State) (s : State) (i : Slot)
    (r : SlotRecord) (sw : SwitchRec) (c : ResultCode) : State :=
  State.resultOrEndBy rest
    { s with
      cache := s.withoutStaged i, map := s.withoutReserved i
      log := s.log.join (switchFault i r sw c) }
    i r { sw with result := some c }

/-- A switch enters LOADING, or a BIND BINDING, at a record (R136): a misaligned address fails it with
RECORD_BAD, and the claim of a CALL, REBIND or BIND that fails with RECORD_BUSY, both before any read; else
such a record is RESERVED and the record read is queued. -/
def State.loadOpenedBy (rest : State → Slot → SlotRecord → State) (s : State) (i : Slot)
    (r : SlotRecord) (sw : SwitchRec) (a : Addr) : State :=
  if a.toNat % 64 ≠ 0 then s.switchFailedBy rest i r { sw with target := some a } .recordBad
  else if (sw.kind = .call ∨ sw.kind = .rebind ∨ sw.kind = .bind) ∧ s.recordBusy a then
    s.switchFailedBy rest i r { sw with target := some a } .recordBusy
  else
    State.setSlot
      { s with
        map := if sw.kind = .call ∨ sw.kind = .rebind ∨ sw.kind = .bind then
            s.map ++ [{ record := a, slot := i, role := .reserved }]
          else s.map
        tfu := { s.tfu with queue := s.tfu.queue ++ [readOp i .recordRead a 64] } } i
      { r with
        state := if sw.kind = .bind then .binding else .loading
        switch := some { sw with target := some a } }

/-- A CALL enters RESOLVING (R102): a group out of range fails it with GATE_RANGE, and else the directory
entry read is queued. -/
def State.callOpenedBy (rest : State → Slot → SlotRecord → State) (s : State) (i : Slot)
    (r : SlotRecord) (sw : SwitchRec) (c : RootCopy) (g : GateRef) : State :=
  if c.dirLength ≤ g.group.toNat then s.switchFailedBy rest i r sw .gateRange
  else
    State.setSlot
      { s with
        tfu := { s.tfu with queue := s.tfu.queue ++
          [readOp i .directoryRead (tableAddr (c.dirAddr.toNat / 8 * 8 + 8 * g.group.toNat)) 8] } } i
      { r with state := .resolving, switch := some sw }

/-- A REBIND or BIND starts (R135): the binding, its windows, the stack and the map entries go; a boot
binding of 0 fails it with NOT_BOUND, and else the load is opened at the boot record. -/
def State.startOpenedBy (rest : State → Slot → SlotRecord → State) (s : State) (i : Slot)
    (r : SlotRecord) (sw : SwitchRec) (c : RootCopy) : State :=
  let t := { s with cache := s.withoutCommitted i, map := s.withoutBound i }
  if c.boot[i] = 0 then t.switchFailedBy rest i { r with binding := none, stack := [] } sw .notBound
  else t.loadOpenedBy rest i { r with binding := none, stack := [] } sw c.boot[i]

/-- The force's switch record at its taking (R16, R150), with no mailbox request preempted. -/
def forceRecord (k : SwitchKind) (g : Option GateRef) : SwitchRec :=
  { origin := .force, kind := k, gate := g, seqTag := none, mailbox := none, watch := none,
    target := none, level := none, transfer := false, result := none, preempted := none,
    loaded := none, cursor := none }

/-- The switch record of a taken force (R16, R150), with no mailbox request preempted. -/
def PendingForce.record (f : PendingForce) : SwitchRec :=
  match f with
  | .call g => forceRecord .call (some g)
  | .rebind => forceRecord .rebind none

/-- A force is taken in a slot at rest, of the record `r` else (R130, R150): DRAINING while granules of the
slot are in flight, and else its switch goes on at once; one that fails at once leaves the slot at rest
again.  A device that takes a force has its root copy. -/
def State.forceStarts (s : State) (i : Slot) (r : SlotRecord) (f : PendingForce) : State :=
  if ∃ x ∈ s.tracker, x.slot = i then
    s.setSlot i { r with state := .draining, switch := some f.record }
  else
    match f, s.root with
    | .call g, some c => s.callOpenedBy State.setSlot i r f.record c g
    | .rebind, some c => s.startOpenedBy State.setSlot i r f.record c
    | _, none => s.setSlot i r

/-- A queued request of an UNBOUND slot answered (R32): its completion and its record. -/
def unboundFault (r : Request) : FaultRecord :=
  { kind := .unboundSlot, slot := r.initiator, context := none, request := some r.addr,
    target := none, detail := none }

/-- A queued request answered UNSUPPORTED from its queue (R34). -/
def unsupported (r : Request) : Completion :=
  zeroCompletion r.initiator r.tag r.op r.length .unsupported

/-- The queued requests of a slot that became UNBOUND answered, in RUNNING, QUIESCING and QUIESCED
(R32). -/
def State.queueAnswered (s : State) (i : Slot) : State :=
  if Guarding s then
    State.setQueues
      { s with
        completions := s.completions ++ (s.queued i).map unsupported
        log := ((s.queued i).map unboundFault).foldl FaultLog.join s.log } i
      { regular := [], priority := [] }
  else s

/-- A slot whose requested disable completes (R19): OFF, without binding, windows, stack and map
entries, its record else `r`. -/
def State.turnedOff (s : State) (i : Slot) (r : SlotRecord) : State :=
  State.setSlot { s with cache := s.withoutCommitted i, map := s.withoutBound i } i
    { r with state := .off, binding := none, stack := [], disableReq := false }

/-- What becomes of a pending force at the end of a switch (R144, R150, R152), the slot's record being
`r`: a CALL of an UNBOUND slot ends with NOT_BOUND, and any other is taken in a RUNNING device and stays
pending in another. -/
def State.pendingTaken (s : State) (i : Slot) (r : SlotRecord) : State :=
  match r.pendingForce with
  | none => s.setSlot i r
  | some (.call g) =>
    if r.state = .unbound then
      State.setSlot { s with mgmt := { s.mgmt with sticky := s.mgmt.sticky ||| 2#3 } } i
        { r with pendingForce := none, lastForce := some .notBound }
    else if s.device = .running then s.forceStarts i { r with pendingForce := none } (.call g)
    else s.setSlot i r
  | some .rebind =>
    if s.device = .running then s.forceStarts i { r with pendingForce := none } .rebind
    else s.setSlot i r

/-- A slot of an ended switch comes to rest, its record being `r` (R19, R32, R144): a requested disable
completes; else its pending force is taken or ended, and the queued requests are answered where the slot
became UNBOUND. -/
def State.comesToRest (s : State) (i : Slot) (r : SlotRecord) : State :=
  if r.disableReq = true then s.turnedOff i r
  else if r.state = .unbound ∨ ((s.pendingTaken i r).slot i).state = .unbound then
    (s.pendingTaken i r).queueAnswered i
  else s.pendingTaken i r

/-- The end of a slot's switch, its record else `r`. -/
def State.switchEnds (s : State) (i : Slot) (r : SlotRecord) (sw : SwitchRec) : State :=
  s.switchEndsBy State.comesToRest i r sw

/-- What follows the header write-back, or the commit or failure without one. -/
def State.resultOrEnd (s : State) (i : Slot) (r : SlotRecord) (sw : SwitchRec) : State :=
  s.resultOrEndBy State.comesToRest i r sw

/-- A switch, of any origin and kind, failed with a code. -/
def State.switchFailed (s : State) (i : Slot) (sw : SwitchRec) (c : ResultCode) : State :=
  s.switchFailedBy State.comesToRest i (s.slot i) sw c

/-- A switch enters LOADING or BINDING at a record. -/
def State.loadOpened (s : State) (i : Slot) (sw : SwitchRec) (a : Addr) : State :=
  s.loadOpenedBy State.comesToRest i (s.slot i) sw a

/-- A REBIND or BIND starts. -/
def State.startOpened (s : State) (i : Slot) (sw : SwitchRec) (c : RootCopy) : State :=
  s.startOpenedBy State.comesToRest i (s.slot i) sw c

/-- A switch is resolved to a record, a level and a TRANSFER flag (R133): a CALL or RETURN of a binding
with KEEP goes to SAVING, any other to LOADING. -/
def State.resolvedTo (s : State) (i : Slot) (sw : SwitchRec) (b : Binding) (a : Addr) (level : Level)
    (transfer : Bool) : State :=
  if (sw.kind = .call ∨ sw.kind = .ret) ∧ b.keep = true then
    State.setSlot
      { s with tfu := { s.tfu with queue := s.tfu.queue ++ [savedOp i b] } } i
      { s.slot i with
        state := .saving
        switch := some { sw with target := some a, level := some level, transfer := transfer } }
  else s.loadOpened i { sw with level := some level, transfer := transfer } a

/-- What follows a commit, the slot's record now being `r` (R143): the write-back of the header that was
read with FRESH, but for a RELOAD; else as after it. -/
def State.afterCommit (s : State) (i : Slot) (r : SlotRecord) (sw : SwitchRec) (a : Addr)
    (l : Loaded) : State :=
  if sw.kind ≠ .reload ∧ l.fresh = true then
    s.closingWith i r { sw with result := some .done } (headerOp i a l.header)
  else s.resultOrEnd i r { sw with result := some .done }

/-- The entry to RUNNING (R95, R169): DONE, START_DONE, the epoch timer at 0, and the queued requests of
every UNBOUND slot answered, from slot 0 to slot 15 (R32). -/
def State.entersRunning (s : State) : State :=
  { s with
    device := .running
    startResult := .done
    timer := { s.timer with count := 0, running := decide (s.epochLength ≠ 0) }
    mgmt := { s.mgmt with sticky := s.mgmt.sticky ||| 1#3 }
    intake := Vector.ofFn fun i : Slot =>
      if (s.slot i).state = .unbound then { regular := [], priority := [] } else s.queues i
    completions := s.completions ++ (List.finRange 16).flatMap fun i =>
      if (s.slot i).state = .unbound then (s.queued i).map unsupported else []
    log := ((List.finRange 16).flatMap fun i =>
      if (s.slot i).state = .unbound then (s.queued i).map unboundFault else []).foldl
        FaultLog.join s.log }

/-- The device state moves on at the event that brings its condition about: from STARTING with its root
copy to RUNNING when no boot binding is under way (R169), and from QUIESCING to QUIESCED when the tracker
is empty, the TFU idle and no slot holds a switch record (R158). -/
def State.movesOn (s : State) : State :=
  if s.device = .starting ∧ s.root ≠ none ∧
      ∀ i : Slot, (s.slot i).switch.map (·.origin) ≠ some .bind then
    s.entersRunning
  else if s.device = .quiescing ∧ s.tracker = [] ∧ s.tfu.queue = [] ∧ s.tfu.inFlight = none ∧
      ∀ i : Slot, (s.slot i).switch = none then
    { s with
      device := .quiesced
      mgmt := { s.mgmt with sticky := s.mgmt.sticky ||| 4#3 } }
  else s

/-- A failed REBIND or BIND leaves its slot UNBOUND, its record else `r`, in a RUNNING device (R142,
R144): what its load held is released, its record `f` is logged, and then its queued requests are
answered (R32, R176). -/
def State.leftUnbound (s : State) (i : Slot) (r : SlotRecord) (f : FaultRecord) : State :=
  (State.setQueues
    { s with
      cache := s.withoutStaged i
      map := s.withoutReserved i
      completions := s.completions ++ (s.queued i).map unsupported
      log := ((s.queued i).map unboundFault).foldl FaultLog.join (s.log.join f) } i
    { regular := [], priority := [] }).setSlot i { r with state := .unbound, switch := none }

/-- The counts of a new binding by the FRESH and KEEP flags of the record as read (R7). -/
def Loaded.Counts (l : Loaded) (b : Binding) : Prop :=
  if l.fresh = false ∧ l.keep = true then
    b.remaining = min l.savedRemaining l.epochBudget ∧ b.denials = l.savedDenials ∧
      b.switchIns = min (l.savedSwitchIns + 1) 4294967295
  else b.remaining = l.epochBudget ∧ b.denials = 0 ∧ b.switchIns = 1

/-- The binding that a commit sets at a record and a level (R141). -/
structure NewBinding (root : RootCopy) (l : Loaded) (a : Addr) (level : Level) (b : Binding) :
    Prop where
  record : b.record = a
  level : b.level = level
  keep : b.keep = l.keep
  budget : b.epochBudget = l.epochBudget
  counts : l.Counts b
  fill : b.fill = (if l.ext then l.extFill.getD 0 else root.fill)

/-! ### Epochs (chapter 5) -/

/-- A slot record after an expiry of the epoch timer (R96): the binding's remaining budget at its epoch
budget, and the held mark ended. -/
def SlotRecord.refilled (r : SlotRecord) : SlotRecord :=
  { r with
    binding := (r.binding.map fun b => { b with remaining := b.epochBudget }), held := false }

/-! ### Management frames (R172 to R174) -/

/-- A write frame answered: its eight bytes are complete, the device drove 00h in bytes 4..7 and the
status byte. -/
def State.framed (s : State) (st : FrameStatus) : State :=
  { s with link := { receiver := .complete, value := 0, status := some st } }

/-- The receiver takes a frame: it stands at the frame boundary (R173). -/
def TakesFrames (s : State) : Prop := s.link.receiver = .boundary

/-- The commands that are management frames, or bytes of one. -/
def IsFrame (c : Instr) : Prop :=
  match c with
  | .start | .reset | .quiesce | .resume | .logRestart | .forceCall _ _ _ | .forceRebind _
  | .cancel _ | .slotEnable _ | .slotDisable _ | .responseLimitWrite _ | .noticeStatusClear _
  | .noticeEnableWrite _ | .noticeThresholdWrite _ | .logDataRead _ | .slotInfoRead _
  | .registerWrite _ _ | .badCommandByte _ => True
  | .requestArrival _ | .decodeAttempt | .completionSend | .auxPortIssue | .primaryPortIssue
  | .responseArrival _ _ _ _ | .responseLimitExpiry _ _ | .epochExpiry | .resetInput
  | .resetInputRelease | .powerOnReset _ | .chipSelectHigh _ => False

/-- A force of a slot that ends at once (R152): the last force result, and FORCE_DONE. -/
def State.forceEnded (s : State) (i : Slot) (c : ResultCode) : State :=
  { s.setSlot i { s.slot i with lastForce := some c } with
    mgmt := { s.mgmt with sticky := s.mgmt.sticky ||| 2#3 } }

/-- The switch record of a force taken from a slot record (R16, R150): in DRAINING, the mailbox request
that it replaces is kept as the preempted one (R151). -/
def SlotRecord.forceTaken (r : SlotRecord) (f : PendingForce) : SwitchRec :=
  { f.record with
    preempted :=
      match r.switch with
      | some sw => sw.mailbox.map fun m => { target := m.target, seqTag := sw.seqTag.getD 0 }
      | none => none }

/-- A pending force may be taken from a slot record in a RUNNING device (R150). -/
def MayTake (r : SlotRecord) (f : PendingForce) : Prop :=
  r.state = .active ∨ (r.state = .unbound ∧ f = .rebind) ∨
    (r.state = .draining ∧ ∃ sw, r.switch = some sw ∧ sw.origin = .mailbox)

/-- A slot state of a switch in which no force is taken (R150). -/
def InLaterStage (st : SlotState) : Prop :=
  st = .binding ∨ st = .resolving ∨ st = .saving ∨ st = .loading ∨ st = .closing

/-- A force stays pending in a slot record of a RUNNING device (R150): in DRAINING of a force or an enable,
and in every later stage of a switch. -/
def StaysPending (r : SlotRecord) : Prop :=
  InLaterStage r.state ∨
    (r.state = .draining ∧ ∃ sw, r.switch = some sw ∧ (sw.origin = .force ∨ sw.origin = .enable))

/-- What a device reset leaves (R170): queued and outstanding requests completed ABORTED, work in
flight forgotten, tables emptied, slots OFF or UNBOUND, the configuration registers kept. -/
structure DeviceResetOf (s t : State) : Prop where
  completions : t.completions = s.completions ++
    s.outstanding.map (fun o => zeroCompletion o.slot o.tag o.op o.length .aborted) ++
    (List.finRange 16).flatMap fun i =>
      (s.queued i).map fun r => zeroCompletion r.initiator r.tag r.op r.length .aborted
  outstanding : t.outstanding = []
  queues : ∀ i, (t.queues i).regular = [] ∧ (t.queues i).priority = []
  pointer : t.pointer = 0
  tracker : t.tracker = []
  tfu : t.tfu.queue = [] ∧ t.tfu.inFlight = none
  identifiers : ∀ p id, (t.pool p).get id =
    if (s.pool p).get id = .inUse then .retired else (s.pool p).get id
  lastGiven : ∀ p, (t.pool p).last = (s.pool p).last
  lastServed : t.lastServed = .table
  slots : ∀ i, (t.slot i).state = (if s.mgmt.slotEnable.getLsbD i.val then .unbound else .off) ∧
    (t.slot i).binding = none ∧ (t.slot i).switch = none ∧ (t.slot i).stack = [] ∧
    (t.slot i).pendingForce = none ∧ (t.slot i).lastForce = none ∧
    (t.slot i).disableReq = false ∧ (t.slot i).held = false
  cache : ∀ k : Fin 256, t.cache[k] = .free
  map : t.map = []
  timer : t.timer.running = false ∧ t.timer.count = 0
  root : t.root = none
  log : t.log.records = [] ∧ t.log.overrun = false ∧ t.log.word = 0
  notice : t.mgmt.sticky = 0 ∧ t.ntc = false
  start : t.startResult = .none
  device : t.device = .direct
  registersKept : t.mgmt.rootLow = s.mgmt.rootLow ∧ t.mgmt.rootHigh = s.mgmt.rootHigh ∧
    t.mgmt.slotEnable = s.mgmt.slotEnable ∧ t.mgmt.responseLimit = s.mgmt.responseLimit ∧
    t.mgmt.enables = s.mgmt.enables ∧ t.mgmt.threshold = s.mgmt.threshold
  registersReset : t.mgmt.slotSelect = 0 ∧ t.mgmt.cancelAnswer = .none ∧ t.mgmt.cancelSlot = 0
  snapshot : t.mgmt.snapshot = Snapshot.ofReset (s.mgmt.slotEnable.getLsbD 0)
  commands : t.pending = s.pending

/-! ### Invariants -/

/-- The fault log holds at most 32 records (R176), and the threshold of its level is 1 to 32 (R175). -/
def LogBounded (s : State) : Prop :=
  s.log.records.length ≤ 32 ∧ 1 ≤ s.mgmt.threshold ∧ s.mgmt.threshold ≤ 32

/-- No record address is twice in the binding map, which holds at most 144 entries (R111). -/
def MapSound (s : State) : Prop :=
  (s.map.map (·.record)).Nodup ∧ s.map.length ≤ 144

/-- A slot record is sound: its remaining budget is at most its epoch budget (R89); its stack holds at
most 8 entries, and fewer while a CALL that will push one is saving or loading (R106); and in OFF,
UNBOUND and ACTIVE it holds no switch record (R16). -/
structure SlotSound (r : SlotRecord) : Prop where
  budget : ∀ b, r.binding = some b → b.remaining ≤ b.epochBudget
  depth : r.stack.length ≤ 8
  room : ∀ sw, r.switch = some sw → (r.state = .saving ∨ r.state = .loading ∨ r.state = .binding) →
    sw.kind = .call → sw.transfer = false → r.stack.length < 8
  atRest : r.state = .off ∨ r.state = .unbound ∨ r.state = .active → r.switch = none

/-- The slot records are sound. -/
def SlotsSound (s : State) : Prop := ∀ i : Slot, SlotSound (s.slot i)

/-- The root record reads that the TFU holds, queued or in flight. -/
def State.rootReads (s : State) : List TableOp :=
  (s.tfu.queue ++ (s.tfu.inFlight.map (·.operation)).toList).filter fun o => o.owner.isNone

/-- The start and the epoch timer are sound: in DIRECT there is no root copy (R166); the TFU holds at
most one root record read, and only in STARTING with no root copy and no granule in the tracker
(R163); the timer runs only in RUNNING, QUIESCING and QUIESCED (R95), with its count below the epoch
length. -/
structure StartSound (s : State) : Prop where
  direct : s.device = .direct → s.root = none
  oneRead : s.rootReads.length ≤ 1
  readWaits : s.rootReads ≠ [] → s.device = .starting ∧ s.root = none ∧ s.tracker = []
  timer : s.timer.running = true → Guarding s ∧ s.timer.count < s.epochLength

/-- The table operations of a slot that the TFU holds, queued or in flight. -/
def State.slotOps (s : State) (i : Slot) : List TableOp :=
  (s.tfu.queue ++ (s.tfu.inFlight.map (·.operation)).toList).filter fun o => decide (o.owner = some i)

/-- The number of entries of a slot's committed list (R20). -/
def State.committedCount (s : State) (i : Slot) : Nat :=
  (s.cache.toList.filter (fun e => e.isCommitted i)).length

/-- A slot's part of the TFU and of the window cache: at most one table operation (R131), none while the
slot is OFF, UNBOUND, ACTIVE or DRAINING (R132); at most 32 entries in each list (R20), with room in the
staged one for what is left of the run that a descriptor read belongs to (R9, R138). -/
structure SlotFetch (s : State) (i : Slot) : Prop where
  one : (s.slotOps i).length ≤ 1
  atRest : (s.slot i).state = .off ∨ (s.slot i).state = .unbound ∨ (s.slot i).state = .active ∨
    (s.slot i).state = .draining → s.slotOps i = []
  staged : s.stagedCount i ≤ 32
  committed : s.committedCount i ≤ 32
  room : ∀ o ∈ s.slotOps i, o.what = .descriptorRead → ∃ sw c, (s.slot i).switch = some sw ∧
    sw.cursor = some c ∧ c.index < c.count ∧ s.stagedCount i + (c.count - c.index) ≤ 32

/-- The TFU and the window cache are sound: every slot's part is; the TFU holds at most one root record
read, and only in STARTING with no root copy and no granule in the tracker (R163); and until the root copy
is made every slot is OFF or UNBOUND (R18, R167). -/
structure FetchSound (s : State) : Prop where
  slots : ∀ i : Slot, SlotFetch s i
  root : s.rootReads ≠ [] →
    s.rootReads.length = 1 ∧ s.device = .starting ∧ s.root = none ∧ s.tracker = []
  start : s.device = .direct ∨ (s.device = .starting ∧ s.root = none) →
    ∀ i : Slot, (s.slot i).state = .off ∨ (s.slot i).state = .unbound

/-- No store holds more than its places: the intake queues (R30), the outstanding table (2.6) and the
granule tracker (4.1). -/
def StoresBounded (s : State) : Prop :=
  (∀ i : Slot, (s.queues i).regular.length ≤ 4 ∧ (s.queues i).priority.length ≤ 2) ∧
    s.outstanding.length ≤ 64 ∧ s.tracker.length ≤ 128

/-- The tags in use of a slot (R28): those of its queued requests and of its outstanding entries. -/
def State.tagsInUse (s : State) (i : Slot) : List Tag :=
  (s.queued i).map (·.tag) ++ (s.outstanding.filter fun o => decide (o.slot = i)).map (·.tag)

/-- Within a slot, a tag names at most one request that is queued or outstanding (R28), each queued
request standing in the queue of its own slot and lane (R24, R30). -/
def TagsSound (s : State) : Prop :=
  ∀ i : Slot, (s.tagsInUse i).Nodup ∧
    (∀ r ∈ (s.queues i).regular, r.initiator = i ∧ r.lane = .regular) ∧
    ∀ r ∈ (s.queues i).priority, r.initiator = i ∧ r.lane = .priority

end Sys2Proof.Machine
end

