-- ==== Sys2Proof/Certificates/Slice0/Obligations.lean ====
section
/-! DEFINITION. The statements for the provers, in the order of the manual's chapters. -/

open Sys2Proof Sys2Proof.Machine

/-! ### Steps -/

/-- A step takes the command at the front of the queue and runs it on the state with the queue's rest. -/
def Obligations.StepRunsTheFrontCommand : Prop :=
  ∀ (c : Instr) (cs : List Instr) (s : State), s.pending = c :: cs →
    step s = exec c { s with pending := cs }

/-- With no command waiting and no operation at its response limit, a microsecond passes; at the end of
an epoch the expiry is taken with it; and an operation at its limit is settled by timeout first.  This
is the model's own tick (log entries 1 and 4). -/
def Obligations.EmptyQueueLetsTimePass : Prop :=
  (∀ s : State, s.pending = [] → s.dueOps = [] → s.timer.running = false →
    step s = .next { s with timer := { s.timer with now := s.timer.now + 1 } }.latchNotice) ∧
  (∀ s : State, s.pending = [] → s.dueOps = [] → s.timer.running = true →
    s.timer.count + 1 < s.epochLength →
    step s = .next
      { s with timer := { s.timer with now := s.timer.now + 1, count := s.timer.count + 1 } }.latchNotice) ∧
  (∀ s : State, s.pending = [] → s.dueOps = [] → s.timer.running = true →
    s.epochLength ≤ s.timer.count + 1 →
    step s = .next
      { s with
        timer := { s.timer with now := s.timer.now + 1, count := 0 }
        slots := s.slots.map SlotRecord.refilled }.latchNotice) ∧
  (∀ s : State, s.pending = [] → s.dueOps ≠ [] → ∃ x ∈ s.dueOps,
    step s = .next (settle { s with freeCount := s.freeCount + 1 } x.1 x.2 .timeout).latchNotice)

/-! ### Arrivals and completions (chapter 2) -/

/-- The first of the five checks of R26 that fails refuses an arriving request with its kind: a
completion UNSUPPORTED, one fault record, and nothing else changed; a request that passes all five
is placed in its queue. -/
def Obligations.FirstFailingCheckRefusesAnArrival : Prop :=
  ∀ (r : Request) (s : State), s.resetHeld = false →
    (FormFails r →
      exec (.requestArrival r) s = .next (s.refused r .malformed).latchNotice) ∧
    (¬FormFails r → TagTaken s r →
      exec (.requestArrival r) s = .next (s.refused r .tagReuse).latchNotice) ∧
    (¬FormFails r → ¬TagTaken s r → SlotShut s r →
      exec (.requestArrival r) s = .next (s.refused r .slotOff).latchNotice) ∧
    (¬FormFails r → ¬TagTaken s r → ¬SlotShut s r → UnboundShut s r →
      exec (.requestArrival r) s = .next (s.refused r .unboundSlot).latchNotice) ∧
    (¬FormFails r → ¬TagTaken s r → ¬SlotShut s r → ¬UnboundShut s r → QueueFull s r →
      exec (.requestArrival r) s = .next (s.refused r .queueOverrun).latchNotice) ∧
    (¬FormFails r → ¬TagTaken s r → ¬SlotShut s r → ¬UnboundShut s r → ¬QueueFull s r →
      exec (.requestArrival r) s = .next (s.setQueues r.initiator
        (if r.lane = .regular then
          { s.queues r.initiator with regular := (s.queues r.initiator).regular ++ [r] }
        else
          { s.queues r.initiator with
            priority := (s.queues r.initiator).priority ++ [r] })).latchNotice)

/-- A request that passes the first four checks joins the tail of the queue of its lane, or is refused
QUEUE_OVERRUN when that queue is full. -/
def Obligations.AdmittedArrivalJoinsItsQueue : Prop :=
  ∀ (r : Request) (s : State), s.resetHeld = false → ¬FormFails r → ¬TagTaken s r →
    ¬SlotShut s r → ¬UnboundShut s r →
    (r.lane = .regular → (s.queues r.initiator).regular.length < 4 →
      exec (.requestArrival r) s = .next (s.setQueues r.initiator
        { s.queues r.initiator with
          regular := (s.queues r.initiator).regular ++ [r] }).latchNotice) ∧
    (r.lane = .priority → (s.queues r.initiator).priority.length < 2 →
      exec (.requestArrival r) s = .next (s.setQueues r.initiator
        { s.queues r.initiator with
          priority := (s.queues r.initiator).priority ++ [r] }).latchNotice) ∧
    (r.lane = .regular → 4 ≤ (s.queues r.initiator).regular.length →
      exec (.requestArrival r) s = .next (s.refused r .queueOverrun).latchNotice) ∧
    (r.lane = .priority → 2 ≤ (s.queues r.initiator).priority.length →
      exec (.requestArrival r) s = .next (s.refused r .queueOverrun).latchNotice)

/-- The reset input held active: a presented request waits at the interconnect; at the release the
requests presented arrive, the oldest first.  That they wait in that order is the model's reading of
R45 (log entry 11). -/
def Obligations.PresentedRequestsArriveAtTheRelease : Prop :=
  (∀ (r : Request) (s : State), s.resetHeld = true →
    exec (.requestArrival r) s = .next { s with presented := s.presented ++ [r] }.latchNotice) ∧
  (∀ s : State, s.presented = [] →
    exec .resetInputRelease s = .next { s with resetHeld := false }.latchNotice) ∧
  (∀ (r : Request) (rs : List Request) (s u : State), s.presented = r :: rs →
    exec (.requestArrival r) { s with resetHeld := false, presented := rs } = .next u →
    exec .resetInputRelease s = exec .resetInputRelease u)

/-- COMPLETION_SEND sends the completion formed first; without one it changes nothing (log entry 19). -/
def Obligations.CompletionsLeaveInTheOrderFormed : Prop :=
  (∀ (c : Completion) (cs : List Completion) (s : State), s.completions = c :: cs →
    exec .completionSend s = .next { s with completions := cs, sent := some c }.latchNotice) ∧
  (∀ s : State, s.completions = [] → exec .completionSend s = .next s.latchNotice)

/-! ### Decode (chapters 2, 3 and 5) -/

/-- An attempt is made on the slot found first from the pointer that has a decodable candidate; the
pointer goes to the slot after it, and no other slot is touched; with no such slot nothing happens. -/
def Obligations.RoundRobinServesTheFirstDecodableSlot : Prop :=
  (∀ (s : State) (i : Slot) (r : Request), Chosen s i r →
    ∃ t, exec .decodeAttempt s = .next t ∧ t.pointer = i + 1 ∧
      ∀ j : Slot, j ≠ i → t.queues j = s.queues j ∧ t.slot j = s.slot j) ∧
  (∀ s : State, (∀ i : Slot, ¬IsDecodable s i) → exec .decodeAttempt s = .next s.latchNotice)

/-- In DIRECT a decode finds every granule issuable on the P-port at its request address, with no
window, lane, threshold or budget check; the read data it lays out is not stated (log entry 5). -/
def Obligations.DirectDecodePassesThrough : Prop :=
  ∀ (s : State) (i : Slot) (r : Request), Chosen s i r → s.device = .direct →
    s.tracker.length + granuleCount r.addr r.length ≤ 128 →
    ∃ data : List Byte, data.length = (if r.op = .read then r.length else 0) ∧
      exec .decodeAttempt s = .next
        (s.decoded i r .primary (fun j => BitVec.ofNat 40 (firstByte r.addr j)) false data).latchNotice

/-- In RUNNING, a request whose granules the window `w` decides and passes is taken: its granules are
issued through the window, the read data is laid out as fill data, and the budget is charged. -/
def Obligations.PermittedDecodeIssuesItsGranules : Prop :=
  ∀ (s : State) (i : Slot) (r : Request) (b : Binding) (w : Window) (p : MemPort),
    Chosen s i r → s.device = .running → (s.slot i).binding = some b →
    0 < granuleCount r.addr r.length →
    (∀ j < granuleCount r.addr r.length, DecidedBy s i r j w) →
    w.port.memory = some p → LaneOk w r → LevelOk w r b.level →
    (∀ j < granuleCount r.addr r.length,
      ¬GuardStops s.root b r (w.translate (firstByte r.addr j))) →
    BudgetAdmits s r b (if w.exempt then 0 else granuleCount r.addr r.length) →
    s.tracker.length + granuleCount r.addr r.length ≤ 128 →
    ¬(r.op = .write ∧ r.lane = .regular ∧ r.length = 8 ∧ r.mask = List.replicate 8 true ∧
      w.reqBase = r.addr ∧ w.watch = true) →
    exec .decodeAttempt s = .next
      ((s.decoded i r p (fun j => w.translate (firstByte r.addr j)) false
          (if r.op = .read then
            (List.range r.length).map fun k => fillByte b.fill (r.addr.toNat + k)
           else [])).setSlot i
        { s.slot i with
          binding := some (b.afterTaken s r
            (if w.exempt then 0 else granuleCount r.addr r.length)) }).latchNotice

/-- The window that decides a granule is the first of the committed list whose range contains the
granule's start, the range running from its base over its size; without one the granule is UNMAPPED. -/
def Obligations.FirstMatchingWindowDecides : Prop :=
  (∀ (w : Window) (a : Nat), w.covers a = true ↔
    w.reqBase.toNat ≤ a ∧ a < w.reqBase.toNat + w.pages * 4096) ∧
  ∀ (s : State) (i : Slot) (r : Request) (j : Nat) (b : Binding), s.device ≠ .direct →
    (s.slot i).binding = some b →
    (∀ w, DecidedBy s i r j w →
      (judgeGranule s i r j).outcome = judgeWindow s.root b w r (firstByte r.addr j)) ∧
    ((∀ w ∈ s.committedList i, w.covers (granuleStart r.addr j) = false) →
      (judgeGranule s i r j).outcome = .failed .unmapped)

/-- The four checks of R50 on a granule whose first request byte is `a`, in their order. -/
def Obligations.WindowChecksInOrder : Prop :=
  ∀ (root : Option RootCopy) (b : Binding) (w : Window) (r : Request) (a : Nat),
    (w.port = .hole → judgeWindow root b w r a = .failed .denied) ∧
    ∀ p, w.port.memory = some p →
      (¬LaneOk w r → judgeWindow root b w r a = .failed .lane) ∧
      (LaneOk w r → ¬LevelOk w r b.level → judgeWindow root b w r a = .failed .denied) ∧
      (LaneOk w r → LevelOk w r b.level → GuardStops root b r (w.translate a) →
        judgeWindow root b w r a = .failed (.tableGuard (w.translate a))) ∧
      (LaneOk w r → LevelOk w r b.level → ¬GuardStops root b r (w.translate a) →
        judgeWindow root b w r a = .issuable (w.translate a) p)

/-- A decode that is HELD for its budget, or not taken for want of tracker entries, leaves its request
where it was: only the held mark and the pointer change. -/
def Obligations.DiscardedDecodeLeavesNoTrace : Prop :=
  (∀ (s : State) (i : Slot) (r : Request) (b : Binding), Chosen s i r →
    (s.slot i).binding = some b → BudgetChecked s r b →
    b.remaining < budgetCount r (decodeRequest s i r) → b.remaining ≠ b.epochBudget →
    exec .decodeAttempt s = .next
      { s.setSlot i { s.slot i with held := true } with pointer := i + 1 }.latchNotice) ∧
  (∀ (s : State) (i : Slot) (r : Request), Chosen s i r →
    (∀ b, (s.slot i).binding = some b → s.device = .running →
      BudgetAdmits s r b (budgetCount r (decodeRequest s i r))) →
    128 - s.tracker.length < issuableCount (decodeRequest s i r) →
    exec .decodeAttempt s = .next { s with pointer := i + 1 }.latchNotice)

/-- A request whose granule 0 is not issuable is completed at its decode with the status of that
outcome, first failing granule 0 and fill data; one fault record is logged, the denial count rises
unless the outcome is LANE, and no granule reaches a port.  A byte of fill data is the byte of the
pattern that its request address names. -/
def Obligations.DeniedDecodeCompletesAtOnce : Prop :=
  (∀ (fill : Word) (a : Nat),
    fillByte fill a = BitVec.ofNat 8 (fill.toNat / 256 ^ (a % 4) % 256)) ∧
  ∀ (s : State) (i : Slot) (r : Request) (b : Binding) (f : DecodeFail), Chosen s i r →
    s.device = .running → (s.slot i).binding = some b → 0 < granuleCount r.addr r.length →
    (judgeGranule s i r 0).outcome = .failed f →
    (f = .lane → ∀ j < granuleCount r.addr r.length,
      (judgeGranule s i r j).outcome = .failed .lane) →
    exec .decodeAttempt s = .next
      (({ s.setQueues i ((s.queues i).pop r.lane) with
          pointer := i + 1
          completions := s.completions ++
            [{ initiator := i, tag := r.tag
               status := match f with
                 | .unmapped => .unmapped
                 | .denied => .denied
                 | .lane => .unsupported
                 | .tableGuard _ => .denied
               firstFailing := some 0
               data := if r.op = .read then
                   some ((List.range r.length).map fun k => fillByte b.fill (r.addr.toNat + k))
                 else none }]
          log := s.log.join
            { kind := match f with
                | .unmapped => .unmapped
                | .denied => .denied
                | .lane => .lane
                | .tableGuard _ => .tableGuard
              slot := i, context := some b.record, request := some r.addr
              target := match f with
                | .tableGuard t => some t
                | .unmapped => none
                | .denied => none
                | .lane => none
              detail := none }
          freeCount := s.freeCount + r.length } : State).setSlot i
        { s.slot i with
          binding := some { b with
            denials := if f = .lane then b.denials else min (b.denials + 1) 4294967295 } }).latchNotice

/-- No write granule whose target lies in the protected table region enters the tracker for a slot
whose level is above 0. -/
def Obligations.GuardedWriteIsNeverIssued : Prop :=
  ∀ (s : State), s.device ≠ .direct →
    ∃ t, exec .decodeAttempt s = .next t ∧
      ∀ e ∈ t.tracker, e ∈ s.tracker ∨
        ∃ b, (s.slot e.slot).binding = some b ∧
          ¬(e.op = .write ∧ b.level ≠ 0 ∧ InRegion s.root e.target)

/-- A watched write that is taken is captured: the switch record is made from its request word, the
slot enters DRAINING, and its granule goes to memory like any other.  Kind code 1 is CALL, 2 RETURN and
3 RELOAD; any other names none. -/
def Obligations.WatchedWriteIsCaptured : Prop :=
  (mailboxKind 1 = .call ∧ mailboxKind 2 = .ret ∧ mailboxKind 3 = .reload ∧
    ∀ code : Byte, code ≠ 1 → code ≠ 2 → code ≠ 3 → mailboxKind code = .undefined code) ∧
  ∀ (s : State) (i : Slot) (r : Request) (b : Binding) (w : Window), Chosen s i r →
    s.device = .running → (s.slot i).binding = some b → (s.slot i).pendingForce = none →
    r.op = .write → r.lane = .regular → r.length = 8 → r.mask = List.replicate 8 true →
    DecidedBy s i r 0 w → w.reqBase = r.addr → r.addr.toNat % 4096 = 0 → w.watch = true →
    w.port = .primary → LevelOk w r b.level → ¬GuardStops s.root b r w.tgtBase →
    BudgetAdmits s r b (if w.exempt then 0 else 1) → s.tracker.length < 128 →
    exec .decodeAttempt s = .next
      ((s.decoded i r .primary (fun _ => w.tgtBase) true []).setSlot i
        { s.slot i with
          state := .draining
          binding := some (b.afterTaken s r (if w.exempt then 0 else 1))
          switch := some
            { origin := .mailbox, kind := mailboxKind (byteAt r.data 0)
              gate := some { group := byteAt r.data 1, entry := byteAt r.data 2 }
              seqTag := some (BitVec.ofNat 16 (field r.data 4 2))
              mailbox := some { target := w.tgtBase, request := r.addr }
              watch := some .pending, target := none, level := none, transfer := false
              result := none, preempted := none, loaded := none, cursor := none } }).latchNotice

/-! ### Memory ports (chapter 4) -/

/-- The A-port issues the oldest WAITING AUX granule under the port's next identifier; while the reset
input is held, no AUX granule waits or no identifier is FREE, it issues nothing. -/
def Obligations.AuxPortIssuesTheOldestGranule : Prop :=
  (∀ (s : State) (before after : List TrackerEntry) (e : TrackerEntry) (id : IssueId),
    s.resetHeld = false → OldestWaiting s .aux before e after → s.aPool.next = some id →
    exec .auxPortIssue s = .next
      { s with
        tracker := before ++ { e with flight := some { id := id, time := s.timer.now } } :: after
        aPool := { ids := s.aPool.ids.set id.toFin .inUse, last := id }
        aOut := some
          { id := id, op := e.op, target := e.target, count := e.count, mask := e.mask,
            data := e.data, lane := e.lane, origin := some e.slot, table := false } }.latchNotice) ∧
  (∀ s : State, s.resetHeld = true ∨ NoneWaiting s .aux ∨ s.aPool.next = none →
    exec .auxPortIssue s = .next s.latchNotice)

/-- The primary port arbiter gives an issue to the side that waits alone, and when both wait to the
side that was not served last; with neither waiting, no identifier FREE, or the reset input held,
nothing is issued.  After every kind of reset the side served last is TABLE. -/
def Obligations.PrimaryPortAlternatesBetweenItsSides : Prop :=
  (∀ (s : State) (before after : List TrackerEntry) (e : TrackerEntry) (id : IssueId),
    s.resetHeld = false → OldestWaiting s .primary before e after → s.pPool.next = some id →
    OffersNothing s ∨ s.lastServed = .table →
    exec .primaryPortIssue s = .next
      { s with
        tracker := before ++ { e with flight := some { id := id, time := s.timer.now } } :: after
        pPool := { ids := s.pPool.ids.set id.toFin .inUse, last := id }
        pOut := some
          { id := id, op := e.op, target := e.target, count := e.count, mask := e.mask,
            data := e.data, lane := e.lane, origin := some e.slot, table := false }
        lastServed := .granule }.latchNotice) ∧
  (∀ (s : State) (o : TableOp) (rest : List TableOp) (id : IssueId),
    s.resetHeld = false → Offers s o rest → s.pPool.next = some id →
    NoneWaiting s .primary ∨ s.lastServed = .granule →
    exec .primaryPortIssue s = .next
      { s with
        tfu := { queue := rest,
                 inFlight := some { operation := o, flight := { id := id, time := s.timer.now } } }
        pPool := { ids := s.pPool.ids.set id.toFin .inUse, last := id }
        pOut := some
          { id := id, op := o.op, target := o.target, count := o.length,
            mask := if o.op = Op.write then List.replicate o.length true else [],
            data := o.data, lane := .regular, origin := o.owner, table := true }
        lastServed := .table }.latchNotice) ∧
  (∀ s : State, s.resetHeld = true ∨ (NoneWaiting s .primary ∧ OffersNothing s) ∨
      s.pPool.next = none →
    exec .primaryPortIssue s = .next s.latchNotice) ∧
  (∀ (s : State) (frame : Option (List Byte)), ∃ t, exec (.powerOnReset frame) s = .next t ∧
    t.lastServed = .table) ∧
  (∀ s : State, ∃ t, exec .resetInput s = .next t ∧ t.lastServed = .table) ∧
  (∀ s : State, TakesFrames s → ∃ t, exec .reset s = .next t ∧ t.lastServed = .table)

/-- The identifier a port gives next is the first FREE one in ascending order after the one it gave
last, 255 going on to 0; there is none when no identifier is FREE. -/
def Obligations.NextIdentifierIsTheFirstFree : Prop :=
  ∀ q : IdPool,
    (∀ id, q.next = some id ↔ q.get id = .free ∧
      ∀ k : BitVec 8, k < id - (q.last + 1) → q.get (q.last + 1 + k) ≠ .free) ∧
    (q.next = none ↔ ∀ id, q.get id ≠ .free)

/-- A granule whose response has status OK is settled OK: a READ's bytes are placed, the tracker entry
and the identifier are freed, and the completion is formed when no granule of the request is
unsettled.  What else
a settlement may end is stated elsewhere: a drain by SettledMailboxWriteDecidesTheSwitch,
ForceCallIsTakenFromAnActiveSlot, ForceRebindStartsFromTheBootRecord and SlotEnableBindsOrUnbinds, a wait
for the tracker by StartIsTakenInDirectOnly and QuiesceIsTakenInRunningOnly. -/
def Obligations.OkResponseSettlesItsGranule : Prop :=
  ∀ (s : State) (p : MemPort) (id : IssueId) (data : List Byte)
    (before after : List TrackerEntry) (e : TrackerEntry)
    (entriesBefore entriesAfter : List Outstanding) (o o' : Outstanding),
    GranuleIssued s p id before e after → EntryOf s e entriesBefore o entriesAfter →
    e.watched = false → EndsNothing s e.slot → (o.op = .read → data.length = e.count) →
    o' = { o.settledAs e.granule .ok with
      data := if o.op = .read then
          o.data.take (granuleOffset o.addr e.granule) ++ data ++
            o.data.drop (granuleOffset o.addr e.granule + e.count)
        else o.data } →
    ((∃ j, o'.unsettledAt j) →
      exec (.responseArrival p id .ok data) s = .next
        { s.granuleReleased p id .free (before ++ after) with
          outstanding := entriesBefore ++ o' :: entriesAfter
          freeCount := s.freeCount + (e.count - data.length) }.latchNotice) ∧
    ((¬∃ j, o'.unsettledAt j) →
      exec (.responseArrival p id .ok data) s = .next
        { s.granuleReleased p id .free (before ++ after) with
          outstanding := entriesBefore ++ entriesAfter
          completions := s.completions ++ [o'.completion]
          freeCount := s.freeCount + (e.count - data.length) }.latchNotice)

/-- A granule whose response has status ERROR is settled as ERROR, its bytes left as they were, and a
MEMORY_ERROR record is logged.  What else
a settlement may end is stated elsewhere: a drain by SettledMailboxWriteDecidesTheSwitch,
ForceCallIsTakenFromAnActiveSlot, ForceRebindStartsFromTheBootRecord and SlotEnableBindsOrUnbinds, a wait
for the tracker by StartIsTakenInDirectOnly and QuiesceIsTakenInRunningOnly. -/
def Obligations.ErrorResponseSettlesItsGranule : Prop :=
  ∀ (s : State) (p : MemPort) (id : IssueId) (before after : List TrackerEntry) (e : TrackerEntry)
    (entriesBefore entriesAfter : List Outstanding) (o : Outstanding),
    GranuleIssued s p id before e after → EntryOf s e entriesBefore o entriesAfter →
    e.watched = false → EndsNothing s e.slot →
    ((∃ j, (o.settledAs e.granule .error).unsettledAt j) →
      exec (.responseArrival p id .error []) s = .next
        { s.granuleReleased p id .free (before ++ after) with
          outstanding := entriesBefore ++ o.settledAs e.granule .error :: entriesAfter
          log := s.log.join (granuleFault s .memoryError e o)
          freeCount := s.freeCount + e.count }.latchNotice) ∧
    ((¬∃ j, (o.settledAs e.granule .error).unsettledAt j) →
      exec (.responseArrival p id .error []) s = .next
        { s.granuleReleased p id .free (before ++ after) with
          outstanding := entriesBefore ++ entriesAfter
          completions := s.completions ++ [(o.settledAs e.granule .error).completion]
          log := s.log.join (granuleFault s .memoryError e o)
          freeCount := s.freeCount + e.count }.latchNotice)

/-- An issued granule whose age has reached the response limit is settled as ERROR by timeout: its
identifier becomes RETIRED and a TIMEOUT record is logged.  The hypothesis puts the timebase at or
past the instant of the expiry; a command that comes before it brings the timebase there first (log
entry 2).  What else
a settlement may end is stated elsewhere: a drain by SettledMailboxWriteDecidesTheSwitch,
ForceCallIsTakenFromAnActiveSlot, ForceRebindStartsFromTheBootRecord and SlotEnableBindsOrUnbinds, a wait
for the tracker by StartIsTakenInDirectOnly and QuiesceIsTakenInRunningOnly. -/
def Obligations.ExpiredGranuleSettlesAsError : Prop :=
  ∀ (s : State) (p : MemPort) (id : IssueId) (before after : List TrackerEntry) (e : TrackerEntry)
    (f : Flight) (entriesBefore entriesAfter : List Outstanding) (o : Outstanding),
    GranuleIssued s p id before e after → EntryOf s e entriesBefore o entriesAfter →
    e.watched = false → EndsNothing s e.slot → e.flight = some f → s.mgmt.responseLimit ≠ 0 →
    f.time + s.mgmt.responseLimit.toNat ≤ s.timer.now →
    s.timer.count < s.epochLength ∨ s.timer.running = false →
    ((∃ j, (o.settledAs e.granule .error).unsettledAt j) →
      exec (.responseLimitExpiry p id) s = .next
        { s.granuleReleased p id .retired (before ++ after) with
          outstanding := entriesBefore ++ o.settledAs e.granule .error :: entriesAfter
          log := s.log.join (granuleFault s .timeout e o)
          freeCount := s.freeCount + e.count }.latchNotice) ∧
    ((¬∃ j, (o.settledAs e.granule .error).unsettledAt j) →
      exec (.responseLimitExpiry p id) s = .next
        { s.granuleReleased p id .retired (before ++ after) with
          outstanding := entriesBefore ++ entriesAfter
          completions := s.completions ++ [(o.settledAs e.granule .error).completion]
          log := s.log.join (granuleFault s .timeout e o)
          freeCount := s.freeCount + e.count }.latchNotice)

/-- The completion of a request whose granules have settled: MEMORY_ERROR when one settled as ERROR,
else PARTIAL when one was not issuable, else OK; its first failing granule is the lowest that was not
issuable or settled as ERROR, and absent for OK. -/
def Obligations.CompletionStatusIsMerged : Prop :=
  ∀ o : Outstanding,
    ((∃ g ∈ o.granules, g.settled = some .error) → o.completion.status = .memoryError) ∧
    ((¬∃ g ∈ o.granules, g.settled = some .error) →
      (∃ g ∈ o.granules, ∃ f, g.outcome = .failed f) → o.completion.status = .partialDone) ∧
    ((¬∃ g ∈ o.granules, g.settled = some .error) →
      (¬∃ g ∈ o.granules, ∃ f, g.outcome = .failed f) →
      o.completion.status = .ok ∧ o.completion.firstFailing = none) ∧
    (o.completion.status ≠ .ok → ∃ n g, o.completion.firstFailing = some n ∧
      o.granules[n]? = some g ∧ (g.settled = some .error ∨ ∃ f, g.outcome = .failed f) ∧
      ∀ m < n, ∀ h, o.granules[m]? = some h →
        h.settled ≠ some .error ∧ ∀ f, h.outcome ≠ .failed f)

/-- A response whose identifier is FREE changes nothing, and one whose identifier is RETIRED only
frees that identifier. -/
def Obligations.ResponseWithoutItsOperationIsDiscarded : Prop :=
  ∀ (s : State) (p : MemPort) (id : IssueId) (st : RespStatus) (data : List Byte),
    ((s.pool p).get id = .free →
      exec (.responseArrival p id st data) s = .next s.latchNotice) ∧
    ((s.pool p).get id = .retired →
      exec (.responseArrival p id st data) s =
        .next (s.setPool p ((s.pool p).put id .free)).latchNotice)

/-! ### Mailboxes and the switch sequence (chapters 6, 7 and 8) -/

/-- The settlement of a granule of a slot that drains for a captured mailbox request: the watched one sets
the watch outcome, and another leaves it as it stands.  While granules of the slot remain nothing else
happens; the last of them ends the drain.  With the outcome failed the request is dropped with a SWITCH
record and the slot comes to rest in ACTIVE, where a requested disable completes or a pending force is taken
(the order of the completions where it ends UNBOUND: log entry 31).
With OK the switch is resolved by its kind: a CALL reads its directory entry, or fails with GATE_RANGE for a
group out of range; a RETURN goes to the top of the stack, or fails with STACK_EMPTY; a RELOAD goes to the
binding's own record; and a kind code that names none fails with FORM. -/
def Obligations.SettledMailboxWriteDecidesTheSwitch : Prop :=
  ∀ (s u : State) (c : Instr) (e : TrackerEntry) (rest : List TrackerEntry) (st : RespStatus)
    (sw sw' : SwitchRec),
    GranuleSettles s c e rest st u → Switching s e.slot .draining sw → sw.origin = .mailbox →
    sw' = { sw with
      watch := if e.watched = true then some (if st = .ok then .ok else .failed) else sw.watch } →
    ((∃ x ∈ rest, x.slot = e.slot) → (s.slot e.slot).pendingForce = none ∨ s.device ≠ .running →
      exec c s = .next
        ((u.setSlot e.slot { s.slot e.slot with switch := some sw' }).movesOn).latchNotice) ∧
    ((∀ x ∈ rest, x.slot ≠ e.slot) → sw'.watch = some .failed →
      exec c s = .next
        ((State.comesToRest
          { u with log := u.log.join (switchFault e.slot (s.slot e.slot) sw .tableError) } e.slot
          { s.slot e.slot with state := .active, switch := none }).movesOn).latchNotice) ∧
    ((∀ x ∈ rest, x.slot ≠ e.slot) → sw'.watch = some .ok →
      (∀ (r : RootCopy) (g : GateRef), s.root = some r → sw.kind = .call → sw.gate = some g →
        (g.group.toNat < r.dirLength → r.dirAddr.toNat / 8 * 8 + 8 * r.dirLength ≤ 2 ^ 40 →
          exec c s = .next
            ((State.setSlot
              { u with tfu := { s.tfu with queue := s.tfu.queue ++
                [readOp e.slot .directoryRead
                  (BitVec.ofNat 40 (r.dirAddr.toNat / 8 * 8 + 8 * g.group.toNat)) 8] } } e.slot
              { s.slot e.slot with state := .resolving, switch := some sw' }).movesOn).latchNotice) ∧
        (r.dirLength ≤ g.group.toNat →
          exec c s = .next ((u.switchFailed e.slot sw' .gateRange).movesOn).latchNotice)) ∧
      (sw.kind = .ret → (s.slot e.slot).stack = [] →
        exec c s = .next ((u.switchFailed e.slot sw' .stackEmpty).movesOn).latchNotice) ∧
      (∀ (b : Binding) (top : StackEntry) (below : List StackEntry), sw.kind = .ret →
        (s.slot e.slot).stack = top :: below → (s.slot e.slot).binding = some b →
        exec c s = .next
          ((u.resolvedTo e.slot sw' b top.record top.level false).movesOn).latchNotice) ∧
      (∀ b : Binding, sw.kind = .reload → (s.slot e.slot).binding = some b →
        exec c s = .next
          ((u.resolvedTo e.slot sw' b b.record b.level false).movesOn).latchNotice) ∧
      ∀ code, sw.kind = .undefined code →
        exec c s = .next ((u.switchFailed e.slot sw' .form).movesOn).latchNotice)

/-- The settlement of the directory entry read fails the CALL, of a mailbox or of a force, with GATE_RANGE
where its gate list is no usable one or does not reach the entry, and else queues the gate entry read.  The
settlement of the gate entry read applies the last steps of R102 in their order, but for the caller ceiling
of a force (R104), and when they pass, goes on to SAVING with the outgoing context's counts, its KEEP flag
being set, or, it being clear, to LOADING. -/
def Obligations.GateEntryDecidesTheCall : Prop :=
  (∀ (s : State) (id : IssueId) (i : Slot) (a : Addr) (data : List Byte) (sw : SwitchRec)
    (g : GateRef),
    TableIssued s id (readOp i .directoryRead a 8) → Switching s i .resolving sw →
    sw.gate = some g → data.length = 8 →
    (field data 5 1 = 0 ∨ 128 < field data 5 1 ∨ field data 0 5 % 16 ≠ 0 ∨
        2 ^ 40 < field data 0 5 + 16 * field data 5 1 ∨ field data 5 1 ≤ g.entry.toNat →
      exec (.responseArrival .primary id .ok data) s = .next
        (((s.tableSettled id .free 0).switchFailed i sw .gateRange).movesOn).latchNotice) ∧
    (1 ≤ field data 5 1 → field data 5 1 ≤ 128 → field data 0 5 % 16 = 0 →
      field data 0 5 + 16 * field data 5 1 ≤ 2 ^ 40 → g.entry.toNat < field data 5 1 →
      exec (.responseArrival .primary id .ok data) s = .next
        (State.movesOn
          { s.tableSettled id .free 0 with
            tfu := { queue := s.tfu.queue ++
                       [readOp i .gateRead
                         (BitVec.ofNat 40 (field data 0 5 + 16 * g.entry.toNat)) 16]
                     inFlight := none } }).latchNotice)) ∧
  ∀ (s : State) (id : IssueId) (i : Slot) (a : Addr) (data : List Byte) (sw : SwitchRec)
    (b : Binding) (valid transfer : Bool) (ceiling entry : Level) (target : Addr),
    TableIssued s id (readOp i .gateRead a 16) → Switching s i .resolving sw →
    sw.kind = .call → (s.slot i).binding = some b → data.length = 16 →
    valid = (byteAt data 0).getLsbD 0 → transfer = (byteAt data 0).getLsbD 1 →
    ceiling.val = (byteAt data 1).toNat % 4 → entry.val = (byteAt data 1).toNat / 16 % 4 →
    target = BitVec.ofNat 40 (field data 8 5) →
    (valid = false → exec (.responseArrival .primary id .ok data) s = .next
      (((s.tableSettled id .free 0).switchFailed i sw .gateEmpty).movesOn).latchNotice) ∧
    (valid = true → sw.origin = .mailbox → ceiling < b.level →
      exec (.responseArrival .primary id .ok data) s = .next
        (((s.tableSettled id .free 0).switchFailed i sw .levelDenied).movesOn).latchNotice) ∧
    (valid = true → sw.origin = .force ∨ b.level ≤ ceiling → transfer = false →
      8 ≤ (s.slot i).stack.length →
      exec (.responseArrival .primary id .ok data) s = .next
        (((s.tableSettled id .free 0).switchFailed i sw .stackFull).movesOn).latchNotice) ∧
    (valid = true → sw.origin = .force ∨ b.level ≤ ceiling →
      (transfer = true ∨ (s.slot i).stack.length < 8) →
      (b.keep = true → exec (.responseArrival .primary id .ok data) s = .next
        ((({ s.tableSettled id .free 0 with
            tfu := { queue := s.tfu.queue ++
                [{ owner := some i, what := .savedWrite, op := .write, target := b.record + 16,
                   length := 16
                   data := leBytes 3 b.remaining ++ [0] ++ leBytes 4 b.denials ++
                     leBytes 4 b.switchIns ++ [0, 0, 0, 0] }]
                     inFlight := none } } : State).setSlot i
          { s.slot i with
            state := .saving
            switch := some { sw with
              target := some target, level := some entry, transfer := transfer } }).movesOn).latchNotice) ∧
      (b.keep = false → exec (.responseArrival .primary id .ok data) s = .next
        (((s.tableSettled id .free 0).loadOpened i
          { sw with level := some entry, transfer := transfer } target).movesOn).latchNotice))

/-- The saved-area write settled OK opens the load: the alignment check and a CALL's claim come before
any read.  The settlement of the record read, of any switch in LOADING or BINDING, checks the format tag and
the list address; a good record goes on to the extension read when EXT is set, else to the first run header
read, which follows the extension read too.  The header's fields stand at the bits of 12.3.  (That a pending
CALL's NOT_BOUND is the last force result where a force REBIND fails here and ends UNBOUND: log entry 27.) -/
def Obligations.RecordReadIsChecked : Prop :=
  (∀ (s : State) (id : IssueId) (i : Slot) (b : Binding) (sw : SwitchRec) (a : Addr),
    TableIssued s id (savedOp i b) → Switching s i .saving sw → sw.target = some a →
    exec (.responseArrival .primary id .ok []) s = .next
      (((s.tableSettled id .free 16).loadOpened i sw a).movesOn).latchNotice) ∧
  (∀ (s : State) (id : IssueId) (i : Slot) (a : Addr) (data : List Byte) (st : SlotState)
    (sw : SwitchRec) (l : Loaded),
    TableIssued s id (readOp i .extensionRead a 16) → Switching s i st sw →
    st = .loading ∨ st = .binding → sw.loaded = some l → data.length = 16 →
    exec (.responseArrival .primary id .ok data) s = .next
      ((({ s.tableSettled id .free 0 with
          tfu := { queue := s.tfu.queue ++ [readOp i .runHeaderRead l.listAddr 8]
                   inFlight := none } } : State).setSlot i
        { s.slot i with
          switch := some { sw with
            loaded := some { l with extFill := some (BitVec.ofNat 32 (field data 0 4)) }
            cursor := some { header := l.listAddr, count := 0, index := 0 } } }).movesOn).latchNotice) ∧
  (∀ (s : State) (id : IssueId) (i : Slot) (a : Addr) (data : List Byte) (st : SlotState)
    (sw : SwitchRec) (l : Loaded),
    TableIssued s id (readOp i .recordRead a 64) → Switching s i st sw →
    st = .loading ∨ st = .binding → sw.target = some a → data.length = 64 →
    l = { header := BitVec.ofNat 64 (field data 0 8), listAddr := BitVec.ofNat 40 (field data 8 5),
          savedRemaining := field data 16 3, savedDenials := field data 20 4,
          savedSwitchIns := field data 24 4, extFill := none } →
    (field data 0 2 ≠ 0xC7A1 ∨ field data 8 5 % 8 ≠ 0 →
      exec (.responseArrival .primary id .ok data) s = .next
        (((s.tableSettled id .free 0).switchFailed i sw .recordBad).movesOn).latchNotice) ∧
    (field data 0 2 = 0xC7A1 → field data 8 5 % 8 = 0 → (byteAt data 2).getLsbD 2 = true →
      a.toNat + 64 < 2 ^ 40 →
      exec (.responseArrival .primary id .ok data) s = .next
        ((({ s.tableSettled id .free 0 with
            tfu := { queue := s.tfu.queue ++
                       [readOp i .extensionRead (BitVec.ofNat 40 (a.toNat + 64)) 16]
                     inFlight := none } } : State).setSlot i
          { s.slot i with switch := some { sw with loaded := some l } }).movesOn).latchNotice) ∧
    (field data 0 2 = 0xC7A1 → field data 8 5 % 8 = 0 → (byteAt data 2).getLsbD 2 = false →
      exec (.responseArrival .primary id .ok data) s = .next
        ((({ s.tableSettled id .free 0 with
            tfu := { queue := s.tfu.queue ++ [readOp i .runHeaderRead l.listAddr 8]
                     inFlight := none } } : State).setSlot i
          { s.slot i with
            switch := some { sw with
              loaded := some l
              cursor := some
                { header := l.listAddr, count := 0, index := 0 } } }).movesOn).latchNotice)) ∧
  ∀ (data : List Byte) (l : Loaded), 8 ≤ data.length →
    l.header = BitVec.ofNat 64 (field data 0 8) →
    l.fresh = (byteAt data 2).getLsbD 0 ∧ l.keep = (byteAt data 2).getLsbD 1 ∧
      l.ext = (byteAt data 2).getLsbD 2 ∧ l.initialLevel.val = (byteAt data 2).toNat / 16 % 4 ∧
      l.epochBudget = field data 4 3

/-- The settlements of a window list's reads, of any switch in LOADING or BINDING: a run header that would
pass 32 descriptors fails the load; one that does not queues the run's first descriptor read; a good
descriptor takes the lowest FREE entry and the next read is queued; with no FREE entry the load fails; and a
descriptor that would cross a page, the first of its run or a later one, is not read.  A descriptor is bad
exactly when a condition of R12 holds of its fields, and a good one has the fields of 12.3, a threshold code
of 4 or above being NEVER.  (That a pending CALL's NOT_BOUND is the last force result where a force REBIND
fails here and ends UNBOUND: log entry 27.) -/
def Obligations.WindowListIsReadRunByRun : Prop :=
  (∀ data : List Byte,
    parseWindow data = none ↔
      field data 13 3 = 0 ∨ 1048576 < field data 13 3 ∨
      field data 0 5 % 4096 ≠ 0 ∨ field data 8 5 % 4096 ≠ 0 ∨
      2 ^ 40 < field data 0 5 + field data 13 3 * 4096 ∨
      2 ^ 40 < field data 8 5 + field data 13 3 * 4096 ∨
      (byteAt data 6).toNat % 4 = 3 ∨
      ((byteAt data 6).getLsbD 4 = true ∧ (byteAt data 6).toNat % 4 ≠ 1)) ∧
  (∀ (data : List Byte) (w : Window), parseWindow data = some w →
    w.reqBase = BitVec.ofNat 40 (field data 0 5) ∧ w.pages = field data 13 3 ∧
    w.tgtBase = BitVec.ofNat 40 (field data 8 5) ∧
    (w.port = .hole ↔ (byteAt data 6).toNat % 4 = 0) ∧
    (w.port = .primary ↔ (byteAt data 6).toNat % 4 = 1) ∧
    (w.port = .aux ↔ (byteAt data 6).toNat % 4 = 2) ∧
    w.watch = (byteAt data 6).getLsbD 4 ∧ w.priorityOk = (byteAt data 6).getLsbD 5 ∧
    w.exempt = (byteAt data 6).getLsbD 6 ∧
    (∀ m : Level, (byteAt data 5).toNat % 8 = m.val → w.readThr = .upTo m) ∧
    (4 ≤ (byteAt data 5).toNat % 8 → w.readThr = .never) ∧
    (∀ m : Level, (byteAt data 5).toNat / 16 % 8 = m.val → w.writeThr = .upTo m) ∧
    (4 ≤ (byteAt data 5).toNat / 16 % 8 → w.writeThr = .never)) ∧
  (∀ (s : State) (id : IssueId) (i : Slot) (a : Addr) (data : List Byte) (st : SlotState)
    (sw : SwitchRec) (l : Loaded) (t : Addr) (c : ListCursor),
    TableIssued s id (readOp i .runHeaderRead a 8) → Switching s i st sw →
    st = .loading ∨ st = .binding → sw.loaded = some l → sw.target = some t →
    sw.cursor = some c → data.length = 8 → field data 0 1 ≠ 0 →
    (32 < s.stagedCount i + field data 0 1 →
      exec (.responseArrival .primary id .ok data) s = .next
        (((s.tableSettled id .free 0).switchFailed i sw .listTooLong).movesOn).latchNotice) ∧
    (s.stagedCount i + field data 0 1 ≤ 32 → 4096 < (c.header.toNat + 8) % 4096 + 16 →
      exec (.responseArrival .primary id .ok data) s = .next
        (((s.tableSettled id .free 0).switchFailed i
          { sw with cursor := some { header := c.header, count := field data 0 1, index := 0 } }
          .windowBad).movesOn).latchNotice) ∧
    (s.stagedCount i + field data 0 1 ≤ 32 → (c.header.toNat + 8) % 4096 + 16 ≤ 4096 →
      c.header.toNat + 8 < 2 ^ 40 →
      exec (.responseArrival .primary id .ok data) s = .next
        ((({ s.tableSettled id .free 0 with
            tfu := { queue := s.tfu.queue ++
                       [readOp i .descriptorRead (BitVec.ofNat 40 (c.header.toNat + 8)) 16]
                     inFlight := none } } : State).setSlot i
          { s.slot i with
            switch := some { sw with
              cursor := some
                { header := c.header, count := field data 0 1,
                  index := 0 } } }).movesOn).latchNotice)) ∧
  (∀ (s : State) (id : IssueId) (i : Slot) (a : Addr) (data : List Byte) (st : SlotState)
    (sw : SwitchRec) (c : ListCursor),
    TableIssued s id (readOp i .descriptorRead a 16) → Switching s i st sw →
    st = .loading ∨ st = .binding → sw.cursor = some c → data.length = 16 →
    (parseWindow data = none →
      exec (.responseArrival .primary id .ok data) s = .next
        (((s.tableSettled id .free 0).switchFailed i sw .windowBad).movesOn).latchNotice) ∧
    ∀ w, parseWindow data = some w →
      ((∀ k : Fin 256, s.cache[k] ≠ .free) →
        exec (.responseArrival .primary id .ok data) s = .next
          (((s.tableSettled id .free 0).switchFailed i sw .cacheFull).movesOn).latchNotice) ∧
      ∀ k : Fin 256, s.cache[k] = .free → (∀ j : Fin 256, j < k → s.cache[j] ≠ .free) →
        (c.index + 1 < c.count →
          (c.header.toNat + 8 + 16 * (c.index + 1)) % 4096 + 16 ≤ 4096 →
          c.header.toNat + 8 + 16 * (c.index + 1) < 2 ^ 40 →
          exec (.responseArrival .primary id .ok data) s = .next
            ((({ s.tableSettled id .free 0 with
                cache := s.cache.set k (.staged i (s.stagedCount i) w)
                tfu := { queue := s.tfu.queue ++
                           [readOp i .descriptorRead
                             (BitVec.ofNat 40 (c.header.toNat + 8 + 16 * (c.index + 1))) 16]
                         inFlight := none } } : State).setSlot i
              { s.slot i with
                switch := some { sw with
                  cursor := some { c with index := c.index + 1 } } }).movesOn).latchNotice) ∧
        (c.index + 1 < c.count →
          4096 < (c.header.toNat + 8 + 16 * (c.index + 1)) % 4096 + 16 →
          exec (.responseArrival .primary id .ok data) s = .next
            ((State.switchFailed
              { s.tableSettled id .free 0 with
                cache := s.cache.set k (.staged i (s.stagedCount i) w) } i
              { sw with cursor := some { c with index := c.index + 1 } }
              .windowBad).movesOn).latchNotice) ∧
        (c.count ≤ c.index + 1 → c.header.toNat + 8 + 16 * c.count < 2 ^ 40 →
          exec (.responseArrival .primary id .ok data) s = .next
            ((({ s.tableSettled id .free 0 with
                cache := s.cache.set k (.staged i (s.stagedCount i) w)
                tfu := { queue := s.tfu.queue ++
                           [readOp i .runHeaderRead
                             (BitVec.ofNat 40 (c.header.toNat + 8 + 16 * c.count)) 8]
                         inFlight := none } } : State).setSlot i
              { s.slot i with
                switch := some { sw with
                  cursor := some
                    { header := BitVec.ofNat 40 (c.header.toNat + 8 + 16 * c.count),
                      count := 0, index := 0 } } }).movesOn).latchNotice))

/-- The commit of a CALL, RELOAD, REBIND or BIND of any origin, at the run header of count 0: the
binding, the window lists, the stack, the map and the held mark change together.  A CALL pushes the
caller, or with TRANSFER drops it; a RELOAD changes the window list alone; a REBIND or BIND takes its
level from the record.  CLOSING then queues the header write-back when the record was FRESH, else the
result write of a mailbox or of a preempted one, and a switch with neither ends.  The device moves on where
that end brings it about: to RUNNING at the last boot binding, to QUIESCED at the last switch. -/
def Obligations.CommitReplacesTheBindingAtOnce : Prop :=
  ∀ (s u : State) (id : IssueId) (i : Slot) (h : Addr) (data : List Byte) (st : SlotState)
    (sw : SwitchRec) (l : Loaded) (a : Addr) (c : ListCursor) (root : RootCopy) (level : Level)
    (b nb : Binding),
    TableIssued s id (readOp i .runHeaderRead h 8) → Switching s i st sw →
    st = (if sw.kind = .bind then .binding else .loading) → sw.loaded = some l →
    sw.target = some a → sw.cursor = some c → s.root = some root → data.length = 8 →
    field data 0 1 = 0 → NewBinding root l a level nb →
    u = { s.tableSettled id .free 0 with cache := s.cacheCommitted i } →
    (sw.kind = .call → sw.transfer = false → sw.level = some level →
      (s.slot i).binding = some b →
      exec (.responseArrival .primary id .ok data) s = .next
        (State.afterCommit
          { u with
            map := s.map.map fun e =>
              if e.slot = i ∧ e.role = .active then
                { e with role := .stacked ((s.slot i).stack.length + 1) }
              else if e.slot = i ∧ e.role = .reserved then { e with role := .active }
              else e } i
          { s.slot i with
            binding := some nb, held := false
            stack := { record := b.record, level := b.level } :: (s.slot i).stack }
          sw a l).movesOn.latchNotice) ∧
    (sw.kind = .call → sw.transfer = true → sw.level = some level →
      exec (.responseArrival .primary id .ok data) s = .next
        (State.afterCommit
          { u with
            map := (s.map.filter fun e =>
                !(decide (e.slot = i) && decide (e.role = .active))).map fun e =>
              if e.slot = i ∧ e.role = .reserved then { e with role := .active } else e } i
          { s.slot i with binding := some nb, held := false } sw a l).movesOn.latchNotice) ∧
    (sw.kind = .reload →
      exec (.responseArrival .primary id .ok data) s = .next
        (u.afterCommit i { s.slot i with held := false } sw a l).movesOn.latchNotice) ∧
    (sw.kind = .rebind ∨ sw.kind = .bind → level = (l.header.extractLsb' 20 2).toFin →
      exec (.responseArrival .primary id .ok data) s = .next
        (State.afterCommit
          { u with
            map := s.map.map fun e =>
              if e.slot = i ∧ e.role = .reserved then { e with role := .active } else e } i
          { s.slot i with binding := some nb, held := false } sw a l).movesOn.latchNotice)

/-- The commit of a mailbox RETURN pops the stack: the popped record becomes ACTIVE, at the level of the
popped entry, and the outgoing one leaves the map.  CLOSING queues the header write-back when the record
was FRESH, else the result write. -/
def Obligations.ReturnPopsTheStack : Prop :=
  ∀ (s : State) (id : IssueId) (i : Slot) (h : Addr) (data : List Byte) (sw : SwitchRec)
    (l : Loaded) (c : ListCursor) (root : RootCopy) (top : StackEntry)
    (rest : List StackEntry) (nb : Binding),
    TableIssued s id (readOp i .runHeaderRead h 8) → Switching s i .loading sw →
    sw.kind = .ret → sw.loaded = some l → sw.target = some top.record →
    sw.level = some top.level → sw.cursor = some c → s.root = some root →
    (s.slot i).stack = top :: rest → data.length = 8 → field data 0 1 = 0 →
    NewBinding root l top.record top.level nb →
    exec (.responseArrival .primary id .ok data) s = .next
      (State.afterCommit
        { s.tableSettled id .free 0 with
          cache := s.cacheCommitted i
          map := (s.map.filter fun e =>
              !(decide (e.slot = i) && decide (e.role = .active))).map fun e =>
            if e.slot = i ∧ e.role = .stacked (rest.length + 1) then { e with role := .active }
            else e } i
        { s.slot i with binding := some nb, stack := rest, held := false } sw top.record
        l).movesOn.latchNotice

/-- A switch whose table operation settles failed, by an ERROR response or by timeout, fails with
TABLE_ERROR, but for the saved-area write answered with ERROR, which gives SAVE_FAILED; that its timeout gives
TABLE_ERROR, as R82 and R84 say and R134 does not, is the model's choice (log entry 26).  The operation itself
makes no record.  A mailbox switch goes to CLOSING with its result write; a force, after the PREEMPTED result write of a mailbox
request it preempted, ends with its code, a CALL in ACTIVE and a REBIND in UNBOUND, where a pending CALL ends
too and its NOT_BOUND is then the last force result (log entry 27); a BIND leaves the slot UNBOUND. -/
def Obligations.FailedReadFailsTheSwitch : Prop :=
  ∀ (s t : State) (id : IssueId) (i : Slot) (op : TableOp) (c : Instr) (ids : IdState)
    (st : SlotState) (sw : SwitchRec), TableFails s id op c ids →
    op.owner = some i → Switching s i st sw → t = s.tableSettled id ids op.length →
    ((st = .resolving ∧ (op.what = .directoryRead ∨ op.what = .gateRead)) ∨
        ((st = .loading ∨ st = .binding) ∧ (op.what = .recordRead ∨ op.what = .extensionRead ∨
          op.what = .runHeaderRead ∨ op.what = .descriptorRead)) →
      exec c s = .next ((t.switchFailed i sw .tableError).movesOn).latchNotice) ∧
    (st = .saving → op.what = .savedWrite →
      (c = .responseArrival .primary id .error [] →
        exec c s = .next ((t.switchFailed i sw .saveFailed).movesOn).latchNotice) ∧
      (c = .responseLimitExpiry .primary id →
        exec c s = .next ((t.switchFailed i sw .tableError).movesOn).latchNotice))

/-- The writes of CLOSING settle, OK or failed, by a response or by timeout: after the header write-back
comes the result write, or the end of a switch that has none; a switch ends at its result write, a force's
result being reported, and the slot comes to rest in ACTIVE, or after a REBIND that failed in UNBOUND with
its queued requests answered.  In that event a requested disable completes, a pending force is taken, or a
pending CALL of an UNBOUND slot ends with NOT_BOUND (that its code then stands before the REBIND's: log entry
27).  A failed write logs a CLOSE record and changes nothing else. -/
def Obligations.MailboxSwitchEndsAtItsResultWrite : Prop :=
  ∀ (s t : State) (id : IssueId) (i : Slot) (op : TableOp) (c : Instr) (ids : IdState)
    (failed : Bool) (sw : SwitchRec),
    WriteSettles s id op c ids failed → op.owner = some i → Switching s i .closing sw →
    t = { s.tableSettled id ids op.length with
      log := if failed then s.log.join
          { kind := .closeFault, slot := i, context := (s.slot i).binding.map (·.record),
            request := none, target := none, detail := none }
        else s.log } →
    (op.what = .headerWrite →
      exec c s = .next ((t.resultOrEnd i (s.slot i) sw).movesOn).latchNotice) ∧
    (op.what = .resultWrite →
      exec c s = .next ((t.switchEnds i (s.slot i) sw).movesOn).latchNotice)

/-! ### Start, epochs and quiesce (chapters 5, 9 and 10) -/

/-- START is taken in DIRECT with the reset input released: the device enters STARTING, and the root
record read is queued at once when the tracker is empty, else at the settlement that empties it; in any
other case START is REFUSED. -/
def Obligations.StartIsTakenInDirectOnly : Prop :=
  (∀ s : State, TakesFrames s → s.device = .direct → s.resetHeld = false → s.root = none →
    (s.tracker = [] → exec .start s = .next
      (State.framed
        { s with
          device := .starting, startResult := .none
          tfu := { s.tfu with queue := s.tfu.queue ++
            [{ owner := none, what := .rootRead, op := .read
               target := BitVec.ofNat 40
                 ((s.mgmt.rootHigh.toNat * 2 ^ 32 + s.mgmt.rootLow.toNat) / 256 * 256)
               length := 160, data := [] }] } } .ok).latchNotice) ∧
    (s.tracker ≠ [] → exec .start s = .next
      (State.framed { s with device := .starting, startResult := .none } .ok).latchNotice)) ∧
  (∀ (s u : State) (c : Instr) (e : TrackerEntry) (rest : List TrackerEntry) (st : RespStatus),
    GranuleSettles s c e rest st u → e.watched = false → (s.slot e.slot).state ≠ .draining →
    s.device = .starting → s.root = none →
    (rest = [] → exec c s = .next
      (({ u with tfu := { s.tfu with queue := s.tfu.queue ++
        [{ owner := none, what := .rootRead, op := .read
           target := BitVec.ofNat 40
             ((s.mgmt.rootHigh.toNat * 2 ^ 32 + s.mgmt.rootLow.toNat) / 256 * 256)
           length := 160, data := [] }] } } : State).latchNotice)) ∧
    (rest ≠ [] → exec c s = .next u.latchNotice)) ∧
  (∀ s : State, TakesFrames s → s.device ≠ .direct ∨ s.resetHeld = true →
    exec .start s = .next (s.framed .refused).latchNotice)

/-- The first check of R164 that the root record fails ends the start with its code: the device returns
to DIRECT, a START record is logged and START_DONE is set.  A read that settles failed, by an ERROR
response or by timeout, fails check 1. -/
def Obligations.FailedRootCheckEndsTheStart : Prop :=
  (∀ (s : State) (id : IssueId) (op : TableOp) (c : Instr) (ids : IdState),
    TableFails s id op c ids → op.owner = none → op.length = 160 →
    exec c s = .next ((s.tableSettled id ids 160).startFails .rootRead).latchNotice) ∧
  ∀ (s : State) (id : IssueId) (op : TableOp) (data : List Byte),
    TableIssued s id op → op.owner = none → op.op = .read → op.length = 160 →
    data.length = 160 → s.device = .starting →
    (field data 0 2 ≠ 0x52A7 →
      exec (.responseArrival .primary id .ok data) s =
        .next ((s.tableSettled id .free 0).startFails .rootTag).latchNotice) ∧
    (field data 0 2 = 0x52A7 →
      field data 2 1 = 0 ∨ 64 < field data 2 1 ∨
        2 ^ 40 < field data 8 5 / 8 * 8 + 8 * field data 2 1 →
      exec (.responseArrival .primary id .ok data) s =
        .next ((s.tableSettled id .free 0).startFails .directoryLength).latchNotice) ∧
    (field data 0 2 = 0x52A7 → 1 ≤ field data 2 1 → field data 2 1 ≤ 64 →
      field data 8 5 / 8 * 8 + 8 * field data 2 1 ≤ 2 ^ 40 → field data 20 4 ≠ 0 →
      field data 24 5 % 4096 ≠ 0 ∨ 2 ^ 40 < field data 24 5 + field data 20 4 * 4096 →
      exec (.responseArrival .primary id .ok data) s =
        .next ((s.tableSettled id .free 0).startFails .regionBad).latchNotice)

/-- A root record that passes, with no boot binding for an enabled slot, makes the root copy and enters
RUNNING in one event: DONE, START_DONE, the epoch timer at 0, and every queued request of an UNBOUND
slot answered. -/
def Obligations.PassedRootWithoutBootBindingsEntersRunning : Prop :=
  ∀ (s : State) (id : IssueId) (op : TableOp) (data : List Byte),
    TableIssued s id op → op.owner = none → op.op = .read → op.length = 160 →
    data.length = 160 → s.device = .starting → RootPasses data →
    (∀ i : Slot, s.mgmt.slotEnable.getLsbD i.val = true → field data (32 + 8 * i.val) 5 = 0) →
    (∀ i : Slot, ∀ sw, (s.slot i).switch = some sw → sw.origin ≠ .bind) →
    ∃ t c, exec (.responseArrival .primary id .ok data) s = .next t ∧
      t.device = .running ∧ t.startResult = .done ∧ t.mgmt.sticky = s.mgmt.sticky ||| 1#3 ∧
      t.root = some c ∧ RootCopyOf data c ∧
      t.timer.now = s.timer.now ∧ t.timer.count = 0 ∧
      (t.timer.running = true ↔ field data 4 2 ≠ 0) ∧
      t.completions = s.completions ++ (List.finRange 16).flatMap (fun i =>
        if (s.slot i).state = .unbound then (s.queued i).map unsupported else []) ∧
      t.log = ((List.finRange 16).flatMap fun i =>
        if (s.slot i).state = .unbound then (s.queued i).map unboundFault else []).foldl
          FaultLog.join s.log ∧
      (∀ i : Slot, t.slot i = s.slot i ∧ t.queues i =
        if (s.slot i).state = .unbound then { regular := [], priority := [] } else s.queues i) ∧
      t.outstanding = s.outstanding ∧ t.tracker = s.tracker ∧ t.cache = s.cache ∧ t.map = s.map

/-- A root record that passes, with a boot binding for one enabled slot, makes the root copy, and the
slot's BIND starts in BINDING: its boot record is claimed, and its record read is queued.  A boot record
that is misaligned (RECORD_BAD) or cannot be claimed (RECORD_BUSY), or the failure of a table operation of
the last boot binding, leaves its slot UNBOUND with a BIND record, and as no boot binding is then under way
RUNNING is entered in the same event, with the queued requests of every UNBOUND slot answered.  With boot
bindings for any number of enabled slots, each enters BINDING once, one after another in a free order (log
entry 4): of two with the same record the first claims it, and the other fails with RECORD_BUSY. -/
def Obligations.BootBindingClaimsItsRecord : Prop :=
  (∀ (s : State) (id : IssueId) (op : TableOp) (data : List Byte) (i : Slot),
    TableIssued s id op → op.owner = none → op.op = .read → op.length = 160 →
    data.length = 160 → s.device = .starting → RootPasses data →
    (∀ j : Slot, s.mgmt.slotEnable.getLsbD j.val = true →
      (field data (32 + 8 * j.val) 5 ≠ 0 ↔ j = i)) → s.mgmt.slotEnable.getLsbD i.val = true →
    ∃ c : RootCopy, RootCopyOf data c ∧ ∀ t : State,
      t = { s.tableSettled id .free 0 with
        root := some c, cache := s.withoutCommitted i, map := s.withoutBound i
        freeCount := s.freeCount + 1 } →
      (c.boot[i].toNat % 64 = 0 → ¬t.recordBusy c.boot[i] →
        exec (.responseArrival .primary id .ok data) s = .next
          (State.setSlot
            { t with
              map := t.map ++ [{ record := c.boot[i], slot := i, role := .reserved }]
              tfu := { t.tfu with queue := s.tfu.queue ++
                [readOp i .recordRead c.boot[i] 64] } } i
            { s.slot i with
              state := .binding, binding := none, stack := []
              switch := some { forceRecord .bind none with
                origin := .bind, target := some c.boot[i] } }).latchNotice) ∧
      ∀ code : ResultCode,
        (c.boot[i].toNat % 64 ≠ 0 ∧ code = .recordBad) ∨
          (c.boot[i].toNat % 64 = 0 ∧ t.recordBusy c.boot[i] ∧ code = .recordBusy) →
        (s.slot i).disableReq = false → (s.slot i).pendingForce = none →
        (∀ j, j ≠ i → ∀ x, (s.slot j).switch = some x → x.origin ≠ .bind) →
        exec (.responseArrival .primary id .ok data) s = .next
          (State.setSlot
            { t with
              cache := t.withoutStaged i, map := t.withoutReserved i
              log := s.log.join (bindFault i code) } i
            { s.slot i with
              state := .unbound, binding := none, stack := []
              switch := none }).entersRunning.latchNotice) ∧
  (∀ (s : State) (id : IssueId) (op : TableOp) (data : List Byte),
    TableIssued s id op → op.owner = none → op.op = .read → op.length = 160 →
    data.length = 160 → s.device = .starting → RootPasses data →
    ∃ (c : RootCopy) (l : List Slot), RootCopyOf data c ∧ l.Nodup ∧
      (∀ i : Slot, i ∈ l ↔ s.mgmt.slotEnable.getLsbD i.val = true ∧ c.boot[i] ≠ 0) ∧
      exec (.responseArrival .primary id .ok data) s = .next
        (State.movesOn
          (l.foldl (fun t i => t.startOpened i { forceRecord .bind none with origin := .bind } c)
            { s.tableSettled id .free 0 with
              root := some c, freeCount := s.freeCount + 1 })).latchNotice) ∧
  ∀ (s : State) (id : IssueId) (op : TableOp) (c : Instr) (ids : IdState) (i : Slot)
    (sw : SwitchRec) (r : RootCopy),
    TableFails s id op c ids → op.owner = some i →
    op.what = .recordRead ∨ op.what = .extensionRead ∨ op.what = .runHeaderRead ∨
      op.what = .descriptorRead →
    s.device = .starting → s.root = some r → (s.slot i).state = .binding →
    (s.slot i).switch = some sw → sw.origin = .bind → sw.kind = .bind → sw.preempted = none →
    (s.slot i).disableReq = false → (s.slot i).pendingForce = none →
    (∀ j, j ≠ i → ∀ x, (s.slot j).switch = some x → x.origin ≠ .bind) →
    ∃ t, exec c s = .next t ∧ t.device = .running ∧ t.startResult = .done ∧
      t.mgmt.sticky = s.mgmt.sticky ||| 1#3 ∧ t.timer.now = s.timer.now ∧ t.timer.count = 0 ∧
      (t.timer.running = true ↔ r.epochLength ≠ 0) ∧
      t.slot i = { s.slot i with state := .unbound, switch := none } ∧
      (∀ j, j ≠ i → t.slot j = s.slot j) ∧ t.cache = s.withoutStaged i ∧
      t.map = s.withoutReserved i ∧
      (∀ j : Slot, t.queues j =
        if (s.slot j).state = .unbound ∨ j = i then { regular := [], priority := [] }
        else s.queues j) ∧
      t.completions = s.completions ++ (List.finRange 16).flatMap (fun j =>
        if (s.slot j).state = .unbound ∨ j = i then (s.queued j).map unsupported else []) ∧
      t.log = ((List.finRange 16).flatMap fun j =>
        if (s.slot j).state = .unbound ∨ j = i then (s.queued j).map unboundFault else []).foldl
          FaultLog.join (s.log.join (bindFault i .tableError))

/-- An expiry of the running epoch timer sets every binding's remaining budget to its epoch budget, ends
every held mark and sets the count to 0; a stopped timer takes no expiry.  The expiries that fall in the
time up to a response limit are taken on the way, at E, 2E, 3E of the epoch length E, before the operation
settles, be it a granule or the TFU's; one at the very instant of the settlement is taken before or after it
(log entries 2 and 4). -/
def Obligations.EpochExpiryRefillsEveryBinding : Prop :=
  (∀ s : State, s.timer.running = true → ∃ now,
    exec .epochExpiry s = .next
      { s with
        timer := { now := now, count := 0, running := true }
        slots := s.slots.map SlotRecord.refilled }.latchNotice) ∧
  (∀ s : State, s.timer.running = false → exec .epochExpiry s = .next s.latchNotice) ∧
  ∀ (s : State) (p : MemPort) (id : IssueId) (f : Flight) (d : Nat),
    InFlight s p id f → s.mgmt.responseLimit ≠ 0 →
    s.timer.now + d = f.time + s.mgmt.responseLimit.toNat →
    (s.timer.running = false → exec (.responseLimitExpiry p id) s =
      exec (.responseLimitExpiry p id)
        { s with timer := { s.timer with now := s.timer.now + d } }) ∧
    (s.timer.running = true → s.timer.count + d < s.epochLength →
      exec (.responseLimitExpiry p id) s = exec (.responseLimitExpiry p id)
        { s with
          timer := { s.timer with now := s.timer.now + d, count := s.timer.count + d } }) ∧
    (s.timer.running = true → s.timer.count < s.epochLength →
      s.epochLength < s.timer.count + d → (s.timer.count + d) % s.epochLength ≠ 0 →
      exec (.responseLimitExpiry p id) s = exec (.responseLimitExpiry p id)
        { s with
          timer := { s.timer with
            now := s.timer.now + d, count := (s.timer.count + d) % s.epochLength }
          slots := s.slots.map SlotRecord.refilled }) ∧
    (s.timer.running = true → s.timer.count < s.epochLength →
      s.epochLength ≤ s.timer.count + d → (s.timer.count + d) % s.epochLength = 0 → ∀ t : State,
      t = { s with
        timer := { s.timer with now := s.timer.now + d, count := s.epochLength - 1 }
        slots := if s.timer.count + d = s.epochLength then s.slots
          else s.slots.map SlotRecord.refilled
        freeCount := s.freeCount + 1 } →
      exec (.responseLimitExpiry p id) s = exec (.responseLimitExpiry p id)
          { t with
            timer := { t.timer with count := 0 }, slots := t.slots.map SlotRecord.refilled } ∨
        ∃ v, exec (.responseLimitExpiry p id) t = .next v ∧
          exec (.responseLimitExpiry p id) s = .next
            { v with
              timer := { v.timer with count := 0 }
              slots := v.slots.map SlotRecord.refilled }.latchNotice)

/-- QUIESCE is taken in RUNNING: the device enters QUIESCING, or QUIESCED at once with its notice bit
when the tracker is empty, the TFU idle and no slot holds a switch record; elsewhere it is REFUSED.
QUIESCED is entered in the settlement, of a granule or of a switch's last write, that brings these three
about. -/
def Obligations.QuiesceIsTakenInRunningOnly : Prop :=
  (∀ s : State, TakesFrames s → s.device = .running →
    (s.tracker = [] ∧ s.tfu.queue = [] ∧ s.tfu.inFlight = none ∧
        (∀ i : Slot, (s.slot i).switch = none) →
      exec .quiesce s = .next
        (State.framed
          { s with
            device := .quiesced
            mgmt := { s.mgmt with sticky := s.mgmt.sticky ||| 4#3 } } .ok).latchNotice) ∧
    (¬(s.tracker = [] ∧ s.tfu.queue = [] ∧ s.tfu.inFlight = none ∧
        ∀ i : Slot, (s.slot i).switch = none) →
      exec .quiesce s = .next (State.framed { s with device := .quiescing } .ok).latchNotice)) ∧
  (∀ s : State, TakesFrames s → s.device ≠ .running →
    exec .quiesce s = .next (s.framed .refused).latchNotice) ∧
  (∀ (s u : State) (c : Instr) (e : TrackerEntry) (rest : List TrackerEntry) (st : RespStatus),
    GranuleSettles s c e rest st u → e.watched = false → (s.slot e.slot).state ≠ .draining →
    s.device = .quiescing →
    (rest = [] ∧ s.tfu.queue = [] ∧ s.tfu.inFlight = none ∧
        (∀ i : Slot, (s.slot i).switch = none) →
      exec c s = .next
        { u with
          device := .quiesced
          mgmt := { s.mgmt with sticky := s.mgmt.sticky ||| 4#3 } }.latchNotice) ∧
    (¬(rest = [] ∧ s.tfu.queue = [] ∧ s.tfu.inFlight = none ∧
        ∀ i : Slot, (s.slot i).switch = none) →
      exec c s = .next u.latchNotice)) ∧
  ∀ (s : State) (id : IssueId) (i : Slot) (op : TableOp) (c : Instr) (ids : IdState)
    (failed : Bool) (sw : SwitchRec) (m : MailboxRef),
    WriteSettles s id op c ids failed → op.owner = some i → op.what = .resultWrite →
    s.device = .quiescing → (s.slot i).state = .closing → (s.slot i).switch = some sw →
    (s.slot i).disableReq = false → sw.origin = .mailbox → sw.mailbox = some m → sw.preempted = none →
    sw.kind ≠ .rebind → sw.kind ≠ .bind → s.tracker = [] → s.tfu.queue = [] →
    (∀ j, j ≠ i → (s.slot j).switch = none) →
    exec c s = .next
      ((({ s.tableSettled id ids op.length with
          device := .quiesced
          mgmt := { s.mgmt with sticky := s.mgmt.sticky ||| 4#3 }
          log := if failed then s.log.join
              { kind := .closeFault, slot := i, context := (s.slot i).binding.map (·.record),
                request := none, target := none, detail := none }
            else s.log } : State).setSlot i
        { s.slot i with state := .active, switch := none }).latchNotice)

/-- RESUME is taken in QUIESCING and QUIESCED: the device returns to RUNNING, the epoch timer carries on,
and every pending force whose slot meets R150 is taken; no other slot is touched.  A taken force leaves
its slot in DRAINING with the force's switch record while granules of the slot are in flight; with none,
its switch goes on in the same event.  Where one force is taken, the RESUME does to the slot what the
FORCE itself does in RUNNING, which ForceCallIsTakenFromAnActiveSlot and
ForceRebindStartsFromTheBootRecord state; of several the order is free (log entries 4 and 30).  Elsewhere
RESUME is REFUSED. -/
def Obligations.ResumeTakesThePendingForces : Prop :=
  (∀ s : State, TakesFrames s → s.device = .quiescing ∨ s.device = .quiesced →
    ∃ t, exec .resume s = .next t ∧ t.device = .running ∧ t.timer = s.timer ∧
      t.link = { receiver := .complete, value := 0, status := some .ok } ∧
      ∀ i : Slot,
        ((∀ f, (s.slot i).pendingForce = some f → ¬MayTake (s.slot i) f) →
          t.slot i = s.slot i ∧ t.queues i = s.queues i) ∧
        ∀ f, (s.slot i).pendingForce = some f → MayTake (s.slot i) f →
          ((∃ x ∈ s.tracker, x.slot = i) →
            t.slot i = { s.slot i with
              pendingForce := none, state := .draining
              switch := some ((s.slot i).forceTaken f) } ∧
            t.queues i = s.queues i) ∧
          (∀ (c : RootCopy) (g : GateRef), (∀ x ∈ s.tracker, x.slot ≠ i) → s.root = some c →
            f = .call g → (s.slot i).state = .active → (s.slot i).switch = none →
            (s.slot i).disableReq = false →
            t.queues i = s.queues i ∧
            (g.group.toNat < c.dirLength → t.slot i = { s.slot i with
              pendingForce := none, state := .resolving
              switch := some (forceRecord .call (some g)) }) ∧
            (c.dirLength ≤ g.group.toNat → t.slot i = { s.slot i with
              pendingForce := none, lastForce := some .gateRange })) ∧
          (∀ c : RootCopy, (∀ x ∈ s.tracker, x.slot ≠ i) → s.root = some c → f = .rebind →
            (s.slot i).state = .active ∨ (s.slot i).state = .unbound → (s.slot i).switch = none →
            (s.slot i).disableReq = false →
            (c.boot[i] = 0 → t.slot i = { s.slot i with
              pendingForce := none, state := .unbound, binding := none, stack := []
              lastForce := some .notBound }) ∧
            (c.boot[i] ≠ 0 →
              t.slot i = { s.slot i with
                pendingForce := none, state := .loading, binding := none, stack := []
                switch := some { forceRecord .rebind none with target := some c.boot[i] } } ∨
              ∃ code, (code = .recordBad ∨ code = .recordBusy) ∧ t.slot i = { s.slot i with
                pendingForce := none, state := .unbound, binding := none, stack := []
                lastForce := some code }))) ∧
  (∀ (s : State) (i : Slot) (f : PendingForce) (c : Instr), TakesFrames s →
    s.device = .quiescing ∨ s.device = .quiesced → (s.slot i).pendingForce = some f →
    MayTake (s.slot i) f → (s.slot i).disableReq = false →
    ((s.slot i).state = .unbound → s.queued i = []) →
    (∀ j, j ≠ i → ∀ g, (s.slot j).pendingForce = some g → ¬MayTake (s.slot j) g) →
    (∃ g, f = .call g ∧ c = .forceCall i g.group g.entry) ∨ (f = .rebind ∧ c = .forceRebind i) →
    exec .resume s = exec c
      (State.setSlot { s with device := .running, freeCount := s.freeCount + 1 } i
        { s.slot i with pendingForce := none })) ∧
  (∀ s : State, TakesFrames s → s.device ≠ .quiescing → s.device ≠ .quiesced →
    exec .resume s = .next (s.framed .refused).latchNotice)

/-- The RESET command and the reset input make a device reset; an input already active makes another
(log entry 20).  That the threshold is at least 1 is part of StoresStayWithinTheirPlaces. -/
def Obligations.ResetCommandAndInputResetTheDevice : Prop :=
  (∀ s : State, TakesFrames s → 1 ≤ s.mgmt.threshold → ∃ t, exec .reset s = .next t ∧
    DeviceResetOf s t ∧ t.resetHeld = s.resetHeld ∧
    t.link = { receiver := .complete, value := 0, status := some .ok }) ∧
  (∀ s : State, 1 ≤ s.mgmt.threshold → ∃ t, exec .resetInput s = .next t ∧ DeviceResetOf s t ∧
    t.resetHeld = true ∧ t.link = s.link)

/-- A power-on reset leaves every part as the manual's tables give it, with no completion formed.  Taken
in a frame, it leaves the receiver waiting for chip select to go high, with bytes of the frame complete
or, chip select having only gone low, with none (that the row carries such a frame: log entry 23). -/
def Obligations.PowerOnResetGivesTheResetValues : Prop :=
  ∀ (s : State) (frame : Option (List Byte)), ∃ t, exec (.powerOnReset frame) s = .next t ∧
    t.link = { receiver :=
                 if s.link.receiver = .boundary ∧ frame = none then .boundary else .awaitDeselect
               value := 0, status := none } ∧
    t.completions = [] ∧ t.outstanding = [] ∧ t.tracker = [] ∧ t.tfu.queue = [] ∧
    t.tfu.inFlight = none ∧ t.map = [] ∧ t.pointer = 0 ∧ t.lastServed = .table ∧
    (∀ i : Slot, (t.queues i).regular = [] ∧ (t.queues i).priority = [] ∧
      t.slot i = { state := .unbound, binding := none, switch := none, stack := [],
                   pendingForce := none, lastForce := none, disableReq := false,
                   held := false }) ∧
    (∀ k : Fin 256, t.cache[k] = .free) ∧
    (∀ p id, (t.pool p).get id = .free ∧ (t.pool p).last = 255#8) ∧
    t.timer.running = false ∧ t.timer.count = 0 ∧ t.root = none ∧ t.log.records = [] ∧
    t.log.overrun = false ∧ t.log.word = 0 ∧ t.mgmt.sticky = 0 ∧ t.ntc = false ∧
    t.device = .direct ∧ t.startResult = .none ∧ t.mgmt.rootLow = 0 ∧ t.mgmt.rootHigh = 0 ∧
    t.mgmt.slotEnable = 0xFFFF#16 ∧ t.mgmt.responseLimit = 1000#12 ∧ t.mgmt.enables = 0 ∧
    t.mgmt.threshold = 1 ∧ t.mgmt.slotSelect = 0 ∧ t.mgmt.cancelAnswer = .none ∧
    t.mgmt.cancelSlot = 0 ∧ t.mgmt.snapshot = Snapshot.ofReset true

/-! ### Forces and slot control (chapter 9) -/

/-- A FORCE is judged by the checks of R149 in their order; one that passes them and may not be taken
yet becomes the slot's pending force and changes nothing else: in QUIESCING and QUIESCED, where a REBIND
for an UNBOUND slot is accepted too, and in RUNNING while the slot is in DRAINING of a force or an enable or
in a later stage of a switch. -/
def Obligations.ForceIsJudgedInOrder : Prop :=
  (∀ (s : State) (c : Instr) (i : Slot) (f : PendingForce), TakesFrames s →
    (∃ g e, c = .forceCall i g e ∧ f = .call { group := g, entry := e }) ∨
      (c = .forceRebind i ∧ f = .rebind) →
    (¬Guarding s → exec c s = .next (s.framed .refused).latchNotice) ∧
    (Guarding s → (s.slot i).pendingForce ≠ none →
      exec c s = .next (s.framed .busy).latchNotice) ∧
    (Guarding s → (s.slot i).pendingForce = none →
      (s.slot i).state = .off ∨ (s.slot i).disableReq = true →
      exec c s = .next ((s.forceEnded i .slotOff).framed .ok).latchNotice) ∧
    (Guarding s → (s.slot i).pendingForce = none → (s.slot i).disableReq = false →
      (s.slot i).state = .unbound → f ≠ .rebind →
      exec c s = .next ((s.forceEnded i .notBound).framed .ok).latchNotice) ∧
    (Guarding s → (s.slot i).pendingForce = none → (s.slot i).disableReq = false →
      (s.device ≠ .running ∧ (s.slot i).state ≠ .off ∧
          ((s.slot i).state = .unbound → f = .rebind ∧ s.queued i = [])) ∨
        StaysPending (s.slot i) →
      exec c s = .next
        ((s.setSlot i { s.slot i with pendingForce := some f }).framed .ok).latchNotice)) ∧
  (∀ (s : State) (v : Word), TakesFrames s → v.toNat / 16 % 16 ≠ 1 → v.toNat / 16 % 16 ≠ 2 →
    exec (.registerWrite 7#16 v) s = .next (s.framed .refused).latchNotice)

/-- A force CALL for an ACTIVE slot of a RUNNING device is taken at once: the slot waits in DRAINING for
its granules, or with none goes to RESOLVING and queues its directory entry read, or fails with
GATE_RANGE when the group is out of range.  A force, CALL or REBIND, taken while a captured mailbox request
is in DRAINING replaces it and keeps its mailbox to write PREEMPTED to.  A force CALL's DRAINING ends at
the settlement of the slot's last granule, whatever became of the watched write (that the settled request is
completed before the answers of R32, where a pending REBIND is taken then and leaves the slot UNBOUND: log
entry 31).  That an ACTIVE slot holds no switch record is part of SlotRecordsStaySound. -/
def Obligations.ForceCallIsTakenFromAnActiveSlot : Prop :=
  (∀ (s : State) (i : Slot) (sw : SwitchRec) (m : MailboxRef) (f : PendingForce) (c : Instr),
    TakesFrames s → s.device = .running → (s.slot i).state = .draining →
    (s.slot i).switch = some sw → sw.origin = .mailbox → sw.mailbox = some m →
    (s.slot i).pendingForce = none → (s.slot i).disableReq = false →
    (∃ x ∈ s.tracker, x.slot = i) →
    (∃ g e, f = .call { group := g, entry := e } ∧ c = .forceCall i g e) ∨
      (f = .rebind ∧ c = .forceRebind i) →
    exec c s = .next
      ((s.setSlot i { s.slot i with
        switch := some { (match f with
            | .call g => forceRecord .call (some g)
            | .rebind => forceRecord .rebind none) with
          preempted := some { target := m.target, seqTag := sw.seqTag.getD 0 } } }).framed
          .ok).latchNotice) ∧
  (∀ (s u : State) (c : Instr) (e : TrackerEntry) (rest : List TrackerEntry) (st : RespStatus)
    (sw : SwitchRec) (g : GateRef) (r : RootCopy),
    GranuleSettles s c e rest st u → Switching s e.slot .draining sw → sw.origin = .force →
    sw.kind = .call → sw.gate = some g → s.root = some r →
    ((∃ x ∈ rest, x.slot = e.slot) → exec c s = .next u.movesOn.latchNotice) ∧
    ((∀ x ∈ rest, x.slot ≠ e.slot) → g.group.toNat < r.dirLength →
      r.dirAddr.toNat / 8 * 8 + 8 * r.dirLength ≤ 2 ^ 40 →
      exec c s = .next
        ((State.setSlot
          { u with tfu := { s.tfu with queue := s.tfu.queue ++
            [readOp e.slot .directoryRead
              (BitVec.ofNat 40 (r.dirAddr.toNat / 8 * 8 + 8 * g.group.toNat)) 8] } } e.slot
          { s.slot e.slot with state := .resolving }).movesOn).latchNotice) ∧
    ((∀ x ∈ rest, x.slot ≠ e.slot) → r.dirLength ≤ g.group.toNat →
      exec c s = .next ((u.switchFailed e.slot sw .gateRange).movesOn).latchNotice)) ∧
  ∀ (s : State) (i : Slot) (g e : Byte), TakesFrames s → s.device = .running →
    (s.slot i).state = .active → (s.slot i).switch = none → (s.slot i).pendingForce = none →
    (s.slot i).disableReq = false →
    ((∃ x ∈ s.tracker, x.slot = i) →
      exec (.forceCall i g e) s = .next
        ((s.setSlot i { s.slot i with
          state := .draining
          switch := some (forceRecord .call (some { group := g, entry := e })) }).framed
            .ok).latchNotice) ∧
    ∀ c : RootCopy, s.root = some c → (∀ x ∈ s.tracker, x.slot ≠ i) →
      (g.toNat < c.dirLength → c.dirAddr.toNat / 8 * 8 + 8 * c.dirLength ≤ 2 ^ 40 →
        exec (.forceCall i g e) s = .next
          (State.framed
            (({ s with
                tfu := { s.tfu with queue := s.tfu.queue ++
                  [readOp i .directoryRead
                    (BitVec.ofNat 40 (c.dirAddr.toNat / 8 * 8 + 8 * g.toNat)) 8] } } : State).setSlot i
              { s.slot i with
                state := .resolving
                switch := some (forceRecord .call (some { group := g, entry := e })) })
            .ok).latchNotice) ∧
      (c.dirLength ≤ g.toNat →
        exec (.forceCall i g e) s = .next
          (State.framed
            (State.forceEnded
              { s with
                cache := s.withoutStaged i
                map := s.withoutReserved i
                log := s.log.join
                  { kind := .switchFault, slot := i, context := (s.slot i).binding.map (·.record),
                    request := none, target := none, detail := some (.result .gateRange) } }
              i .gateRange)
            .ok).latchNotice)

/-- A force REBIND for an ACTIVE or UNBOUND slot of a RUNNING device is taken at once: the slot waits in
DRAINING for its granules, or with none in flight the REBIND starts: the binding, its windows, the stack
and the map entries go, and the boot record is claimed and read.  With a boot binding of 0 (NOT_BOUND), a
misaligned one (RECORD_BAD) or one that cannot be claimed (RECORD_BUSY) the slot ends UNBOUND with that
code and its queued requests are answered.  A force REBIND that waits in DRAINING starts so at the
settlement of the slot's last granule, whatever became of a watched write (that the settled request is
completed before those answers: log entry 31; that a pending CALL's NOT_BOUND is then the last force result
where the REBIND ends UNBOUND: log entry 27).  That a slot at rest holds no switch record is part of
SlotRecordsStaySound. -/
def Obligations.ForceRebindStartsFromTheBootRecord : Prop :=
  (∀ (s u : State) (c : Instr) (e : TrackerEntry) (rest : List TrackerEntry) (st : RespStatus)
    (sw : SwitchRec) (r : RootCopy),
    GranuleSettles s c e rest st u → Switching s e.slot .draining sw → sw.origin = .force →
    sw.kind = .rebind → s.root = some r →
    ((∃ x ∈ rest, x.slot = e.slot) → exec c s = .next u.movesOn.latchNotice) ∧
    ((∀ x ∈ rest, x.slot ≠ e.slot) →
      exec c s = .next ((u.startOpened e.slot sw r).movesOn).latchNotice)) ∧
  (∀ (s : State) (i : Slot), TakesFrames s → s.device = .running →
    (s.slot i).state = .active ∨ ((s.slot i).state = .unbound ∧ s.queued i = []) →
    (s.slot i).pendingForce = none → (s.slot i).disableReq = false →
    (s.slot i).switch = none → (∃ x ∈ s.tracker, x.slot = i) →
    exec (.forceRebind i) s = .next
      ((s.setSlot i { s.slot i with
        state := .draining, switch := some (forceRecord .rebind none) }).framed .ok).latchNotice) ∧
  ∀ (s t : State) (i : Slot) (c : RootCopy), TakesFrames s → s.device = .running →
    (s.slot i).state = .active ∨ ((s.slot i).state = .unbound ∧ s.queued i = []) →
    (s.slot i).pendingForce = none → (s.slot i).disableReq = false →
    (s.slot i).switch = none → s.root = some c → (∀ x ∈ s.tracker, x.slot ≠ i) →
    t = { s with cache := s.withoutCommitted i, map := s.withoutBound i } →
    (c.boot[i] ≠ 0 → c.boot[i].toNat % 64 = 0 → ¬t.recordBusy c.boot[i] →
      exec (.forceRebind i) s = .next
        (State.framed
          (({ t with
              map := t.map ++ [{ record := c.boot[i], slot := i, role := .reserved }]
              tfu := { s.tfu with queue := s.tfu.queue ++
                [readOp i .recordRead c.boot[i] 64] } } : State).setSlot i
            { s.slot i with
              state := .loading, binding := none, stack := []
              switch := some { forceRecord .rebind none with target := some c.boot[i] } })
          .ok).latchNotice) ∧
    ∀ code : ResultCode,
      (c.boot[i] = 0 ∧ code = .notBound) ∨
        (c.boot[i].toNat % 64 ≠ 0 ∧ code = .recordBad) ∨
        (c.boot[i] ≠ 0 ∧ c.boot[i].toNat % 64 = 0 ∧ t.recordBusy c.boot[i] ∧
          code = .recordBusy) →
      exec (.forceRebind i) s = .next
        (State.framed
          (State.leftUnbound
            { t with mgmt := { s.mgmt with sticky := s.mgmt.sticky ||| 2#3 } } i
            { s.slot i with binding := none, stack := [], lastForce := some code }
            { kind := .switchFault, slot := i, context := none, request := none,
              target := none, detail := some (.result code) })
          .ok).latchNotice

/-- CANCEL removes a pending force, which ends with CANCELLED, or answers TOO_LATE and leaves the slot;
its status is OK in both cases, and the answer is kept with its slot. -/
def Obligations.CancelIsAnswered : Prop :=
  ∀ (s : State) (i : Slot), TakesFrames s →
    ((s.slot i).pendingForce ≠ none →
      exec (.cancel i) s = .next
        (State.framed
          { s.setSlot i { s.slot i with pendingForce := none, lastForce := some .cancelled } with
            mgmt := { s.mgmt with
              sticky := s.mgmt.sticky ||| 2#3, cancelAnswer := .cancelled, cancelSlot := i } }
          .ok).latchNotice) ∧
    ((s.slot i).pendingForce = none →
      exec (.cancel i) s = .next
        (State.framed
          { s with mgmt := { s.mgmt with cancelAnswer := .tooLate, cancelSlot := i } }
          .ok).latchNotice)

/-- A write of SLOT_ENABLE that sets a slot's clear bit: a requested disable is withdrawn; an OFF slot
becomes UNBOUND, or in RUNNING with a boot binding starts its BIND, in DRAINING while granules of it are
in flight and else in BINDING with its boot record claimed, or UNBOUND again where that record is
misaligned (RECORD_BAD) or cannot be claimed (RECORD_BUSY); a bit already set is no event.  A BIND that
waits in DRAINING starts at the settlement of the slot's last granule (the order of the completions where
it then ends UNBOUND: log entry 31). -/
def Obligations.SlotEnableBindsOrUnbinds : Prop :=
  (∀ (s u : State) (c : Instr) (e : TrackerEntry) (rest : List TrackerEntry) (st : RespStatus)
    (sw : SwitchRec) (r : RootCopy),
    GranuleSettles s c e rest st u → Switching s e.slot .draining sw → sw.origin = .enable →
    sw.kind = .bind → s.root = some r →
    ((∃ x ∈ rest, x.slot = e.slot) → exec c s = .next u.movesOn.latchNotice) ∧
    ((∀ x ∈ rest, x.slot ≠ e.slot) →
      exec c s = .next ((u.startOpened e.slot sw r).movesOn).latchNotice)) ∧
  ∀ (s : State) (i : Slot) (on : State), TakesFrames s →
    on = { s with
      mgmt := { s.mgmt with slotEnable := s.mgmt.slotEnable ||| (1#16 <<< i.val) }
      freeCount := s.freeCount + 1 } →
    (s.mgmt.slotEnable.getLsbD i.val = true →
      exec (.slotEnable i) s = .next (on.framed .ok).latchNotice) ∧
    (s.mgmt.slotEnable.getLsbD i.val = false → (s.slot i).disableReq = true →
      exec (.slotEnable i) s = .next
        ((on.setSlot i { s.slot i with disableReq := false }).framed .ok).latchNotice) ∧
    (s.mgmt.slotEnable.getLsbD i.val = false → (s.slot i).disableReq = false →
      (s.slot i).state = .off →
      s.device ≠ .running ∨ s.root = none ∨ (∃ c, s.root = some c ∧ c.boot[i] = 0) →
      exec (.slotEnable i) s = .next
        ((on.setSlot i { s.slot i with state := .unbound }).framed .ok).latchNotice) ∧
    (s.mgmt.slotEnable.getLsbD i.val = false → (s.slot i).disableReq = false →
      (s.slot i).state = .off → (s.slot i).pendingForce = none → s.device = .running →
      (∃ c, s.root = some c ∧ c.boot[i] ≠ 0) → (∃ x ∈ s.tracker, x.slot = i) →
      exec (.slotEnable i) s = .next
        ((on.setSlot i { s.slot i with
          state := .draining
          switch := some { forceRecord .bind none with origin := .enable } }).framed
            .ok).latchNotice) ∧
    (∀ (c : RootCopy) (code : ResultCode) (t : State), s.root = some c → c.boot[i] ≠ 0 →
      s.mgmt.slotEnable.getLsbD i.val = false → (s.slot i).disableReq = false →
      (s.slot i).state = .off → (s.slot i).pendingForce = none → s.device = .running →
      (∀ x ∈ s.tracker, x.slot ≠ i) →
      t = { on with cache := s.withoutCommitted i, map := s.withoutBound i } →
      (c.boot[i].toNat % 64 ≠ 0 ∧ code = .recordBad) ∨
        (c.boot[i].toNat % 64 = 0 ∧ t.recordBusy c.boot[i] ∧ code = .recordBusy) →
      exec (.slotEnable i) s = .next
        ((t.leftUnbound i { s.slot i with binding := none, stack := [] }
          (bindFault i code)).framed .ok).latchNotice) ∧
    ∀ c : RootCopy, s.root = some c → c.boot[i] ≠ 0 → c.boot[i].toNat % 64 = 0 →
      s.mgmt.slotEnable.getLsbD i.val = false → (s.slot i).disableReq = false →
      (s.slot i).state = .off → (s.slot i).pendingForce = none → s.device = .running →
      (∀ x ∈ s.tracker, x.slot ≠ i) → (∀ e ∈ s.map, e.record ≠ c.boot[i]) →
      s.map.length < 144 →
      exec (.slotEnable i) s = .next
        (State.framed
          (({ on with
              cache := s.withoutCommitted i
              map := s.withoutBound i ++
                [{ record := c.boot[i], slot := i, role := .reserved }]
              tfu := { s.tfu with queue := s.tfu.queue ++
                [readOp i .recordRead c.boot[i] 64] } } : State).setSlot i
            { s.slot i with
              state := .binding, binding := none, stack := []
              switch := some { forceRecord .bind none with
                origin := .enable, target := some c.boot[i] } })
          .ok).latchNotice

/-- A write of SLOT_ENABLE that clears a slot's set bit answers its queued requests, priority queue
first, ends its held mark and a pending force with SLOT_OFF; the slot becomes OFF without its
binding, windows, stack and map entries, or during a switch has its disable-requested flag set. -/
def Obligations.SlotDisableEmptiesTheSlot : Prop :=
  ∀ (s : State) (i : Slot) (off : State) (last : Option ResultCode), TakesFrames s →
    s.mgmt.slotEnable.getLsbD i.val = true →
    last = (if (s.slot i).pendingForce = none then (s.slot i).lastForce else some .slotOff) →
    off = { s.setQueues i { regular := [], priority := [] } with
      mgmt := { s.mgmt with
        slotEnable := s.mgmt.slotEnable &&& ~~~(1#16 <<< i.val)
        sticky := if (s.slot i).pendingForce = none then s.mgmt.sticky
          else s.mgmt.sticky ||| 2#3 }
      completions := s.completions ++ (s.queued i).map unsupported
      freeCount := s.freeCount + 1 } →
    ((s.slot i).state = .active ∨ (s.slot i).state = .unbound →
      exec (.slotDisable i) s = .next
        (State.framed
          (({ off with
              cache := s.withoutCommitted i, map := s.withoutBound i } : State).setSlot i
            { s.slot i with
              state := .off, binding := none, stack := [], disableReq := false, held := false
              pendingForce := none, lastForce := last })
          .ok).latchNotice) ∧
    ((s.slot i).state = .draining ∨ InLaterStage (s.slot i).state →
      exec (.slotDisable i) s = .next
        ((off.setSlot i
          { s.slot i with
            disableReq := true, held := false, pendingForce := none, lastForce := last }).framed
          .ok).latchNotice)

/-! ### The management link (chapter 11) -/

/-- A write of RESPONSE_LIMIT above 4,095 is REFUSED; another takes its value at once, and every operation
in flight, granule or table operation, whose age has reached the new limit settles by timeout, one after
another in a free order (log entry 4), each as the expiry of its response limit settles it. -/
def Obligations.ResponseLimitIsJudgedAtTheWrite : Prop :=
  (∀ (s : State) (v : Word), TakesFrames s → 4095 < v.toNat →
    exec (.responseLimitWrite v) s = .next (s.framed .refused).latchNotice) ∧
  (∀ (s : State) (v : Word) (u : State), TakesFrames s → v.toNat ≤ 4095 →
    u = { s with
      mgmt := { s.mgmt with responseLimit := BitVec.ofNat 12 v.toNat }
      freeCount := s.freeCount + 1 } →
    (v.toNat = 0 ∨
        ((∀ e ∈ s.tracker, ∀ f, e.flight = some f → s.timer.now < f.time + v.toNat) ∧
          ∀ f, s.tfu.inFlight = some f → s.timer.now < f.flight.time + v.toNat) →
      exec (.responseLimitWrite v) s = .next (u.framed .ok).latchNotice) ∧
    (∀ p id, u.dueOps = [(p, id)] →
      exec (.responseLimitWrite v) s =
        .next ((settle u p id .timeout).framed .ok).latchNotice) ∧
    (∀ p id, (p, id) ∈ u.dueOps ↔ v.toNat ≠ 0 ∧
      ((∃ e ∈ s.tracker, ∃ f, e.flight = some f ∧ e.port = p ∧ f.id = id ∧
          f.time + v.toNat ≤ s.timer.now) ∨
        ∃ f, s.tfu.inFlight = some f ∧ p = .primary ∧ f.flight.id = id ∧
          f.flight.time + v.toNat ≤ s.timer.now)) ∧
    ∃ l : List (MemPort × IssueId), l.Perm u.dueOps ∧
      exec (.responseLimitWrite v) s = .next
        ((l.foldl (fun t x => settle t x.1 x.2 .timeout) u).framed .ok).latchNotice) ∧
  ∀ (s : State) (p : MemPort) (id : IssueId) (f : Flight), InFlight s p id f →
    LimitReached s f.time →
    exec (.responseLimitExpiry p id) s = .next (settle s p id .timeout).latchNotice

/-- Writes of the notice registers: each sticky bit written as 1 is cleared, NOTICE_ENABLE takes bits
3..0, and NOTICE_THRESHOLD takes 1..32 and refuses any other value. -/
def Obligations.NoticeRegistersAreWritten : Prop :=
  ∀ (s : State) (v : Word), TakesFrames s →
    exec (.noticeStatusClear v) s = .next
      (State.framed
        { s with mgmt := { s.mgmt with
          sticky := s.mgmt.sticky &&& ~~~(BitVec.ofNat 3 v.toNat) } } .ok).latchNotice ∧
    exec (.noticeEnableWrite v) s = .next
      (State.framed
        { s with mgmt := { s.mgmt with enables := BitVec.ofNat 4 v.toNat } } .ok).latchNotice ∧
    (1 ≤ v.toNat → v.toNat ≤ 32 →
      exec (.noticeThresholdWrite v) s = .next
        (State.framed
          { s with mgmt := { s.mgmt with threshold := v.toNat } } .ok).latchNotice) ∧
    (v.toNat = 0 ∨ 32 < v.toNat →
      exec (.noticeThresholdWrite v) s = .next (s.framed .refused).latchNotice)

/-- A whole LOG_DATA read returns the word of the oldest record that the counter names and moves the
counter; the fourth word's read pops the record and clears OVERRUN, unless a record was dropped between
the frame's byte 3 and its byte 7; an empty log reads zeros; a read cut short after byte 3 moves
nothing; one whose byte 7 finds the log empty changes nothing; and LOG_RESTART sets the counter to 0. -/
def Obligations.LogDataReadReturnsAndPops : Prop :=
  (∀ (s : State) (f : FaultRecord) (rest : List FaultRecord) (v : Word), TakesFrames s →
    s.log.records = f :: rest → v = f.word s.log.overrun s.log.word →
    (s.log.word ≠ 3 →
      exec (.logDataRead .whole) s = .next
        { s with
          log := { s.log with word := s.log.word + 1, dropped := false }
          link := { receiver := .complete, value := v, status := some .ok } }.latchNotice) ∧
    (s.log.word = 3 →
      exec (.logDataRead .whole) s = .next
        { s with
          log := { records := rest, overrun := false, word := 0, dropped := false }
          link := { receiver := .complete, value := v, status := some .ok } }.latchNotice) ∧
    exec (.logDataRead .toByte3) s = .next
      { s with
        log := { s.log with dropped := false }
        link := { receiver := .inFrame [0x3A#8, 0x00#8, 0x0F#8] v, value := v
                  status := none } }.latchNotice) ∧
  (∀ (s : State) (f : FaultRecord) (rest : List FaultRecord) (v : Word),
    s.link.receiver = .inFrame [0x3A#8, 0x00#8, 0x0F#8] v → s.log.records = f :: rest →
    (s.log.word ≠ 3 →
      exec (.logDataRead .byte7) s = .next
        { s with
          log := { s.log with word := s.log.word + 1 }
          link := { receiver := .complete, value := v, status := some .ok } }.latchNotice) ∧
    (s.log.word = 3 →
      exec (.logDataRead .byte7) s = .next
        { s with
          log := { records := rest, overrun := s.log.overrun && s.log.dropped, word := 0
                   dropped := s.log.dropped }
          link := { receiver := .complete, value := v, status := some .ok } }.latchNotice)) ∧
  (∀ (s : State) (v : Word), s.link.receiver = .inFrame [0x3A#8, 0x00#8, 0x0F#8] v →
    s.log.records = [] →
    exec (.logDataRead .byte7) s = .next
      { s with
        link := { receiver := .complete, value := v, status := some .ok } }.latchNotice) ∧
  (∀ s : State, TakesFrames s → s.log.records = [] →
    exec (.logDataRead .whole) s = .next
      { s with
        log := { s.log with dropped := false }
        link := { receiver := .complete, value := 0, status := some .ok } }.latchNotice ∧
    exec (.logDataRead .toByte3) s = .next
      { s with
        log := { s.log with dropped := false }
        link := { receiver := .inFrame [0x3A#8, 0x00#8, 0x0F#8] 0, value := 0
                  status := none } }.latchNotice) ∧
  ∀ s : State, TakesFrames s → exec .logRestart s = .next
    (State.framed { s with log := { s.log with word := 0 } } .ok).latchNotice

/-- A read of SLOT_INFO word 0 takes a snapshot of the selected slot's record and returns its first
word; with no binding committed its flag is clear and its level, record address, remaining budget and
denial count are 0; reads of the other words return those of the last snapshot. -/
def Obligations.SlotInfoShowsTheSnapshot : Prop :=
  (∀ (s : State) (i : Slot), TakesFrames s → s.mgmt.slotSelect = i →
    ∃ p : Snapshot, exec (.slotInfoRead 0) s = .next
        { s with
          mgmt := { s.mgmt with snapshot := p }
          link := { receiver := .complete, value := p.word0, status := some .ok } }.latchNotice ∧
      p.word0.extractLsb' 0 4 = (s.slot i).state.code ∧
      p.word0.extractLsb' 8 4 = BitVec.ofNat 4 (s.slot i).stack.length ∧
      p.word0.extractLsb' 16 8 = lastForceCode (s.slot i).lastForce ∧
      p.word0.getLsbD 7 = false ∧ p.word0.extractLsb' 12 4 = 0 ∧ p.word0.extractLsb' 24 8 = 0 ∧
      (∀ b : Binding, (s.slot i).binding = some b →
        p.word0.getLsbD 4 = true ∧ (p.word0.extractLsb' 5 2).toNat = b.level.val ∧
        p.word1 = b.record.extractLsb' 0 32 ∧
        p.word2.extractLsb' 0 8 = b.record.extractLsb' 32 8 ∧
        p.word2.extractLsb' 8 24 = BitVec.ofNat 24 b.remaining ∧
        p.word3 = BitVec.ofNat 32 b.denials) ∧
      ((s.slot i).binding = none →
        p.word0.getLsbD 4 = false ∧ p.word0.extractLsb' 5 2 = 0 ∧ p.word1 = 0 ∧ p.word2 = 0 ∧
        p.word3 = 0)) ∧
  (∀ (s : State) (n : Fin 4), TakesFrames s → n ≠ 0 →
    exec (.slotInfoRead n) s = .next
      { s with link :=
        { receiver := .complete
          value := if n = 1 then s.mgmt.snapshot.word1
            else if n = 2 then s.mgmt.snapshot.word2 else s.mgmt.snapshot.word3
          status := some .ok } }.latchNotice)

/-- A register write is judged by its index: read-only registers are REFUSED, an index that names no
register is BAD_INDEX, ROOT_ADDR and SLOT_SELECT take their values, and a COMMAND code that names no
command is REFUSED.  A write of a register that has rows of its own does what the row does (log entry 17): the
codes of COMMAND, a SLOT_ENABLE value of one changed bit, RESPONSE_LIMIT, the kinds of FORCE, CANCEL and the
notice registers.  A SLOT_ENABLE write of several changed bits takes them one after another, in a free order
(log entry 4), each as its row takes it. -/
def Obligations.RegisterWriteIsJudgedByItsIndex : Prop :=
  ∀ (s : State) (n : BitVec 16) (v : Word), TakesFrames s →
    (n ∈ [0#16, 1#16, 10#16, 11#16, 12#16, 13#16, 14#16, 15#16] →
      exec (.registerWrite n v) s = .next (s.framed .refused).latchNotice) ∧
    (18 < n.toNat → exec (.registerWrite n v) s = .next (s.framed .badIndex).latchNotice) ∧
    exec (.registerWrite 2#16 v) s = .next
      (State.framed { s with mgmt := { s.mgmt with rootLow := v } } .ok).latchNotice ∧
    exec (.registerWrite 3#16 v) s = .next
      (State.framed
        { s with mgmt := { s.mgmt with rootHigh := BitVec.ofNat 8 v.toNat } } .ok).latchNotice ∧
    (v.toNat % 256 = 0 ∨ 5 < v.toNat % 256 →
      exec (.registerWrite 4#16 v) s = .next (s.framed .refused).latchNotice) ∧
    (∀ i : Slot, v.toNat = i.val → exec (.registerWrite 9#16 v) s = .next
      (State.framed { s with mgmt := { s.mgmt with slotSelect := i } } .ok).latchNotice) ∧
    (15 < v.toNat → exec (.registerWrite 9#16 v) s = .next (s.framed .refused).latchNotice) ∧
    (v.toNat % 256 = 1 → exec (.registerWrite 4#16 v) s = exec .start s) ∧
    (v.toNat % 256 = 2 → exec (.registerWrite 4#16 v) s = exec .reset s) ∧
    (v.toNat % 256 = 3 → exec (.registerWrite 4#16 v) s = exec .quiesce s) ∧
    (v.toNat % 256 = 4 → exec (.registerWrite 4#16 v) s = exec .resume s) ∧
    (v.toNat % 256 = 5 → exec (.registerWrite 4#16 v) s = exec .logRestart s) ∧
    exec (.registerWrite 6#16 v) s = exec (.responseLimitWrite v) s ∧
    (∀ i : Slot, i.val = v.toNat % 16 →
      (∀ group entry : Byte, v.toNat / 16 % 16 = 1 → group.toNat = v.toNat / 256 % 256 →
        entry.toNat = v.toNat / 65536 % 256 →
        exec (.registerWrite 7#16 v) s = exec (.forceCall i group entry) s) ∧
      (v.toNat / 16 % 16 = 2 → exec (.registerWrite 7#16 v) s = exec (.forceRebind i) s) ∧
      exec (.registerWrite 8#16 v) s = exec (.cancel i) s) ∧
    exec (.registerWrite 16#16 v) s = exec (.noticeStatusClear v) s ∧
    exec (.registerWrite 17#16 v) s = exec (.noticeEnableWrite v) s ∧
    exec (.registerWrite 18#16 v) s = exec (.noticeThresholdWrite v) s ∧
    (∀ w : BitVec 16, w = BitVec.ofNat 16 v.toNat →
      (∀ i : Slot, w = s.mgmt.slotEnable ||| (1#16 <<< i.val) →
        exec (.registerWrite 5#16 v) s = exec (.slotEnable i) s) ∧
      (∀ i : Slot, w = s.mgmt.slotEnable &&& ~~~(1#16 <<< i.val) →
        exec (.registerWrite 5#16 v) s = exec (.slotDisable i) s) ∧
      (∃ l : List Slot, l.Nodup ∧
        (∀ i : Slot, i ∈ l ↔ w.getLsbD i.val ≠ s.mgmt.slotEnable.getLsbD i.val) ∧
        exec (.registerWrite 5#16 v) s = .next
          (State.framed
            (l.foldl (fun t i => if w.getLsbD i.val = true then enableSlot t i else disableSlot t i)
              { s with
                mgmt := { s.mgmt with slotEnable := w }, freeCount := s.freeCount + 1 })
            .ok).latchNotice)) ∧
    ∀ i : Slot,
      (s.mgmt.slotEnable.getLsbD i.val = false →
        exec (.slotEnable i) s = .next
          (State.framed
            (enableSlot
              { s with
                mgmt := { s.mgmt with slotEnable := s.mgmt.slotEnable ||| (1#16 <<< i.val) }
                freeCount := s.freeCount + 1 } i) .ok).latchNotice) ∧
      (s.mgmt.slotEnable.getLsbD i.val = true →
        exec (.slotDisable i) s = .next
          (State.framed
            (disableSlot
              { s with
                mgmt := { s.mgmt with slotEnable := s.mgmt.slotEnable &&& ~~~(1#16 <<< i.val) }
                freeCount := s.freeCount + 1 } i) .ok).latchNotice)

/-- A command byte other than 3Ah and 5Ch reads nothing, writes nothing and is REFUSED.  Chip select going
high ends a frame and brings the receiver to the frame boundary.  The bytes of a read frame return the
value of the register their index names, high byte first, or 00h with BAD_INDEX, and those of a write frame
do what the register's write does, as soon as byte 7 is complete.  A read frame cut short after byte 3 has
taken its value, and the snapshot of SLOT_INFO, and makes no side effect; a frame cut short before byte 3, or
a write before byte 7, does nothing (that such bytes come with CHIP_SELECT_HIGH: log entry 23).  Past byte 8 (log entry 10), and after
a power-on reset until chip select goes high, no frame is taken.  A frame that comes while another is open
is another controller's and leaves the open one as it was (log entry 9).  The device drives the value in bytes
4 to 7, the status in byte 8 and 00h after it; in bytes 1 to 3 the manual names no byte of the device, and the
model gives none (log entry 29). -/
def Obligations.FramesAreBoundedByChipSelect : Prop :=
  (∀ (s : State) (b : Byte), TakesFrames s → b ≠ 0x3A#8 → b ≠ 0x5C#8 →
    exec (.badCommandByte b) s = .next (s.framed .refused).latchNotice) ∧
  (∀ s : State, exec (.chipSelectHigh []) s = .next
    { s with link := { s.link with receiver := .boundary } }.latchNotice) ∧
  (∀ (s : State) (n : BitVec 16) (more : List Byte) (c : Instr), TakesFrames s →
    4 ≤ more.length →
    c = .chipSelectHigh ([0x3A#8, n.extractLsb' 8 8, n.extractLsb' 0 8] ++ more) →
    (∀ v, s.readRegister n = some v → n ≠ 0x0A#16 → n ≠ 0x0F#16 →
      exec c s = .next
        { s with link :=
          { receiver := .boundary, value := v, status := some .ok } }.latchNotice) ∧
    (18 < n.toNat → exec c s = .next
      { s with link :=
        { receiver := .boundary, value := 0, status := some .badIndex } }.latchNotice) ∧
    (n = 0x0A#16 → ∀ t, exec (.slotInfoRead 0) s = .next t →
      exec c s = .next { t with link := { t.link with receiver := .boundary } }.latchNotice) ∧
    (n = 0x0F#16 → ∀ t, exec (.logDataRead .whole) s = .next t →
      exec c s = .next { t with link := { t.link with receiver := .boundary } }.latchNotice)) ∧
  (∀ (s : State) (n : BitVec 16) (part : List Byte) (c : Instr), TakesFrames s →
    part.length < 4 →
    c = .chipSelectHigh ([0x3A#8, n.extractLsb' 8 8, n.extractLsb' 0 8] ++ part) →
    (∀ v, s.readRegister n = some v → n ≠ 0x0A#16 → n ≠ 0x0F#16 →
      exec c s = .next
        { s with link := { receiver := .boundary, value := v, status := none } }.latchNotice) ∧
    (18 < n.toNat → exec c s = .next
      { s with link := { receiver := .boundary, value := 0, status := none } }.latchNotice) ∧
    (n = 0x0A#16 → ∀ t, exec (.slotInfoRead 0) s = .next t →
      exec c s = .next
        { t with link := { t.link with receiver := .boundary, status := none } }.latchNotice) ∧
    (n = 0x0F#16 → ∀ t, exec (.logDataRead .toByte3) s = .next t →
      exec c s = .next { t with link := { t.link with receiver := .boundary } }.latchNotice)) ∧
  (∀ (s t : State) (n : BitVec 16) (v : Word) (more : List Byte), TakesFrames s →
    exec (.registerWrite n v) s = .next t →
    exec (.chipSelectHigh ([0x5C#8, n.extractLsb' 8 8, n.extractLsb' 0 8, v.extractLsb' 24 8,
        v.extractLsb' 16 8, v.extractLsb' 8 8, v.extractLsb' 0 8] ++ more)) s =
      .next { t with link := { t.link with receiver := .boundary } }.latchNotice) ∧
  (∀ (s : State) (bytes : List Byte), TakesFrames s → bytes ≠ [] →
    bytes.length < 3 ∨ (bytes.head? = some 0x5C#8 ∧ bytes.length < 7) →
    exec (.chipSelectHigh bytes) s = .next
      { s with link := { receiver := .boundary, value := 0, status := none } }.latchNotice) ∧
  (∀ (s : State) (c : Instr), IsFrame c →
    s.link.receiver = .complete ∨ s.link.receiver = .awaitDeselect →
    exec c s = .next s.latchNotice) ∧
  (∀ (s t : State) (c : Instr) (f : List Byte) (v : Word), IsFrame c →
    c ≠ .logDataRead .toByte3 → c ≠ .logDataRead .byte7 → s.link.receiver = .inFrame f v →
    exec c { s with link := { s.link with receiver := .boundary } } = .next t →
    exec c s = .next { t with link := { t.link with receiver := .inFrame f v } }.latchNotice) ∧
  ∀ l : Link,
    (∃ b4 b5 b6 b7 : Byte, l.drives 4 = some b4 ∧ l.drives 5 = some b5 ∧ l.drives 6 = some b6 ∧
      l.drives 7 = some b7 ∧ b4 ++ b5 ++ b6 ++ b7 = l.value) ∧
    (l.status = some .ok → l.drives 8 = some 0x00#8) ∧
    (l.status = some .badIndex → l.drives 8 = some 0x01#8) ∧
    (l.status = some .refused → l.drives 8 = some 0x02#8) ∧
    (l.status = some .busy → l.drives 8 = some 0x03#8) ∧
    (l.status = none → l.drives 8 = none) ∧
    (∀ n, 8 < n → l.drives n = some 0x00#8) ∧ ∀ n, n < 4 → l.drives n = none

/-! ### Encodings (chapter 12) -/

/-- The words of a fault record carry its fields at the places of 12.4, an absent field reading 0 with its
mark clear and a detail standing in bits 29..22 of word 2; a result word its bytes at those of 12.3; the
registers that hold several fields theirs at those of 12.5.  A read of each register index returns its
content, and an index above 12h names none.  The code sets have the values of 12.6.  A record handed to the
log joins at the tail while the log holds fewer than 32, and else is dropped and sets OVERRUN. -/
def Obligations.RecordWordsFollowTheirLayouts : Prop :=
  (∀ (k : FaultKind) (i : Slot) (c r t : Addr) (lost : Bool), c.toNat % 64 = 0 →
    let f : FaultRecord := { kind := k, slot := i, context := some c, request := some r,
                             target := some t, detail := none }
    (f.word lost 0).extractLsb' 0 4 = k.code ∧ ((f.word lost 0).extractLsb' 4 4).toNat = i.val ∧
    (f.word lost 0).extractLsb' 8 4 = 0x7#4 ∧
    ((f.word lost 1).extractLsb' 0 14 ++ (f.word lost 0).extractLsb' 12 20) ++ 0#6 = c ∧
    (f.word lost 2).extractLsb' 0 22 ++ (f.word lost 1).extractLsb' 14 18 = r ∧
    (f.word lost 3).extractLsb' 0 30 ++ (f.word lost 2).extractLsb' 22 10 = t ∧
    (f.word lost 3).getLsbD 30 = false ∧ (f.word lost 3).getLsbD 31 = lost) ∧
  (∀ (f : FaultRecord) (lost : Bool), f.target = none ∨ f.detail = none →
    (f.word lost 0).extractLsb' 0 4 = f.kind.code ∧
    ((f.word lost 0).extractLsb' 4 4).toNat = f.slot.val ∧
    (f.word lost 0).getLsbD 8 = f.context.isSome ∧ (f.word lost 0).getLsbD 9 = f.request.isSome ∧
    (f.word lost 0).getLsbD 10 = f.target.isSome ∧ (f.word lost 0).getLsbD 11 = f.detail.isSome ∧
    (f.context = none →
      (f.word lost 1).extractLsb' 0 14 = 0 ∧ (f.word lost 0).extractLsb' 12 20 = 0) ∧
    (f.request = none →
      (f.word lost 2).extractLsb' 0 22 = 0 ∧ (f.word lost 1).extractLsb' 14 18 = 0) ∧
    (f.target = none → (f.word lost 3).extractLsb' 0 30 = 0) ∧
    (f.target = none → f.detail = none → (f.word lost 2).extractLsb' 22 10 = 0) ∧
    (∀ d, f.detail = some d →
      (f.word lost 2).extractLsb' 22 8 = d.code ∧ (f.word lost 2).extractLsb' 30 2 = 0) ∧
    (f.word lost 3).getLsbD 30 = false ∧ (f.word lost 3).getLsbD 31 = lost) ∧
  (∀ (l : FaultLog) (f : FaultRecord),
    (l.records.length < 32 → l.join f = { l with records := l.records ++ [f] }) ∧
    (32 ≤ l.records.length → l.join f = { l with overrun := true, dropped := true })) ∧
  (∀ (c : ResultCode) (depth : Nat) (i : Slot) (tag : BitVec 16),
    resultWord c depth i tag =
      [c.code, BitVec.ofNat 8 depth, BitVec.ofNat 8 i.val, 0x00#8, tag.extractLsb' 0 8,
       tag.extractLsb' 8 8, 0x00#8, 0x00#8]) ∧
  (∀ s : State,
    s.stateWord.extractLsb' 0 3 = s.device.code ∧
    s.stateWord.extractLsb' 8 3 = s.startResult.code ∧
    (s.cancelWord.extractLsb' 0 4).toNat = s.mgmt.cancelSlot.val ∧
    s.cancelWord.extractLsb' 8 8 = s.mgmt.cancelAnswer.code ∧
    s.logCountWord.extractLsb' 0 6 = BitVec.ofNat 6 s.log.records.length ∧
    s.logCountWord.getLsbD 8 = s.log.overrun ∧
    (s.logCountWord.extractLsb' 16 2).toNat = s.log.word.val ∧
    s.noticeWord.extractLsb' 0 3 = s.mgmt.sticky ∧
    (s.noticeWord.getLsbD 3 = true ↔ s.mgmt.threshold ≤ s.log.records.length)) ∧
  (opCode .read = 0 ∧ opCode .write = 1 ∧ laneCode .regular = 0 ∧ laneCode .priority = 1) ∧
  (∀ s : State,
    s.readRegister 0x00#16 = some 0x5D141201#32 ∧
    s.readRegister 0x01#16 = some (0#21 ++ s.startResult.code ++ 0#5 ++ s.device.code) ∧
    s.readRegister 0x02#16 = some s.mgmt.rootLow ∧
    s.readRegister 0x03#16 = some (0#24 ++ s.mgmt.rootHigh) ∧
    s.readRegister 0x04#16 = some 0 ∧
    s.readRegister 0x05#16 = some (0#16 ++ s.mgmt.slotEnable) ∧
    s.readRegister 0x06#16 = some (0#20 ++ s.mgmt.responseLimit) ∧
    s.readRegister 0x07#16 = some 0 ∧
    s.readRegister 0x08#16 =
      some (0#16 ++ s.mgmt.cancelAnswer.code ++ 0#4 ++ BitVec.ofNat 4 s.mgmt.cancelSlot.val) ∧
    s.readRegister 0x09#16 = some (BitVec.ofNat 32 s.mgmt.slotSelect.val) ∧
    (∀ r : SlotRecord, r = s.slot s.mgmt.slotSelect →
      s.readRegister 0x0A#16 = some (0#8 ++ lastForceCode r.lastForce ++ 0#4 ++
        BitVec.ofNat 4 r.stack.length ++ 0#1 ++
        (match r.binding with
          | some b => BitVec.ofNat 2 b.level.val
          | none => 0#2) ++ BitVec.ofBool r.binding.isSome ++ r.state.code)) ∧
    s.readRegister 0x0B#16 = some s.mgmt.snapshot.word1 ∧
    s.readRegister 0x0C#16 = some s.mgmt.snapshot.word2 ∧
    s.readRegister 0x0D#16 = some s.mgmt.snapshot.word3 ∧
    s.readRegister 0x0E#16 = some (0#14 ++ BitVec.ofNat 2 s.log.word.val ++ 0#7 ++
      BitVec.ofBool s.log.overrun ++ 0#2 ++ BitVec.ofNat 6 s.log.records.length) ∧
    (s.log.records = [] → s.readRegister 0x0F#16 = some 0) ∧
    (∀ f rest, s.log.records = f :: rest →
      s.readRegister 0x0F#16 = some (f.word s.log.overrun s.log.word)) ∧
    s.readRegister 0x10#16 = some (0#28 ++
      BitVec.ofBool (decide (s.mgmt.threshold ≤ s.log.records.length)) ++ s.mgmt.sticky) ∧
    s.readRegister 0x11#16 = some (0#28 ++ s.mgmt.enables) ∧
    s.readRegister 0x12#16 = some (BitVec.ofNat 32 s.mgmt.threshold) ∧
    ∀ n : BitVec 16, 18 < n.toNat → s.readRegister n = none) ∧
  ([FaultKind.unmapped, .denied, .tableGuard, .lane, .malformed, .tagReuse, .queueOverrun, .slotOff,
      .unboundSlot, .memoryError, .timeout, .switchFault, .bindFault, .startFault,
      .closeFault].map (·.code) = [1, 2, 3, 4, 5, 6, 7, 8, 9, 10, 11, 12, 13, 14, 15] ∧
    [ResultCode.done, .form, .gateRange, .gateEmpty, .levelDenied, .stackFull, .stackEmpty,
      .recordBusy, .recordBad, .windowBad, .listTooLong, .cacheFull, .tableError, .saveFailed,
      .preempted, .cancelled, .notBound, .slotOff].map (·.code) =
      [0x00, 0x01, 0x02, 0x03, 0x04, 0x05, 0x06, 0x07, 0x08, 0x09, 0x0A, 0x0B, 0x0C, 0x0D, 0x0E, 0x0F,
        0x10, 0x11] ∧
    [SlotState.off, .unbound, .draining, .binding, .active, .resolving, .saving, .loading,
      .closing].map (·.code) = [0, 1, 2, 3, 4, 5, 6, 7, 8] ∧
    [DeviceState.direct, .starting, .running, .quiescing, .quiesced].map (·.code) =
      [0, 1, 2, 3, 4] ∧
    [StartResult.none, .done, .rootRead, .rootTag, .directoryLength, .regionBad].map (·.code) =
      [0, 1, 2, 3, 4, 5] ∧
    [CompletionStatus.ok, .unmapped, .denied, .unsupported, .partialDone, .memoryError,
      .aborted].map (·.code) = [0, 1, 2, 3, 4, 5, 6] ∧
    [CancelAnswer.none, .cancelled, .tooLate].map (·.code) = [0xFF, 0x0F, 0x12] ∧
    lastForceCode none = 0xFF ∧ (∀ c : ResultCode, lastForceCode (some c) = c.code) ∧
    (∀ c : ResultCode, (Detail.result c).code = c.code) ∧
    ∀ c : StartResult, (Detail.start c).code = 0#5 ++ c.code)

/-! ### Invariants -/

/-- The state after reset has every invariant below, and the notice line the condition that every step
gives it. -/
def Obligations.ResetHasTheInvariants : Prop :=
  (State.reset.ntc = true ↔
    (∃ k < 3, State.reset.mgmt.sticky.getLsbD k = true ∧
      State.reset.mgmt.enables.getLsbD k = true) ∨
    (State.reset.mgmt.enables.getLsbD 3 = true ∧
      State.reset.mgmt.threshold ≤ State.reset.log.records.length)) ∧
  LogBounded State.reset ∧ StoresBounded State.reset ∧ MapSound State.reset ∧
    SlotsSound State.reset ∧ StartSound State.reset ∧ TagsSound State.reset ∧
    FetchSound State.reset

/-- After every step the notice line is asserted exactly when an enabled sticky bit is set, or LOG is
enabled and the log count is at least the threshold. -/
def Obligations.NoticeLineFollowsItsCondition : Prop :=
  ∀ s t : State, step s = .next t →
    (t.ntc = true ↔
      (∃ k < 3, t.mgmt.sticky.getLsbD k = true ∧ t.mgmt.enables.getLsbD k = true) ∨
      (t.mgmt.enables.getLsbD 3 = true ∧ t.mgmt.threshold ≤ t.log.records.length))

/-- Every step keeps the fault log within 32 records, the threshold of its level within 1 to 32, and the
intake queues, the outstanding table and the granule tracker within their places.  It keeps at most one
table operation of each slot in the TFU, none of a slot at rest or in DRAINING, at most 16 in its queue,
and at most 32 entries in a slot's committed list and in its staged list. -/
def Obligations.StoresStayWithinTheirPlaces : Prop :=
  (∀ s t : State, LogBounded s → StoresBounded s → step s = .next t →
    LogBounded t ∧ StoresBounded t) ∧
  ∀ s t : State, FetchSound s → step s = .next t → FetchSound t ∧ t.tfu.queue.length ≤ 16

/-- Every step keeps each record address at most once in the binding map, of at most 144 entries. -/
def Obligations.RecordAddressesStayUniqueInTheMap : Prop :=
  ∀ s t : State, MapSound s → step s = .next t → MapSound t

/-- Every step keeps every slot record sound: the remaining budget within the epoch budget, the stack
within 8 entries, and no switch record in a slot that is OFF, UNBOUND or ACTIVE. -/
def Obligations.SlotRecordsStaySound : Prop :=
  ∀ s t : State, SlotsSound s → step s = .next t → SlotsSound t

/-- Every step keeps the start and the epoch timer sound: no root copy in DIRECT, a root record read
only while STARTING waits for one, a running timer only in and after RUNNING, and its count short of
the epoch length. -/
def Obligations.StartAndTimerStaySound : Prop :=
  ∀ s t : State, StartSound s → step s = .next t → StartSound t

/-- Every step keeps each tag of a slot naming at most one request that is queued or outstanding. -/
def Obligations.TagsStayUniqueWithinASlot : Prop :=
  ∀ s t : State, TagsSound s → step s = .next t → TagsSound t
end

