-- ==== Sys2Proof/Laws/State.lean ====
section
/-! SUPPORT. One lemma for each field and each named update of the state: the field is untouched, or has the value the update gives it. -/

namespace Sys2Proof.Machine.State

/-! ### setSlot -/

@[simp] theorem setSlot_pending (s : State) (i : Slot) (r : SlotRecord) : (s.setSlot i r).pending = s.pending := rfl
@[simp] theorem setSlot_device (s : State) (i : Slot) (r : SlotRecord) : (s.setSlot i r).device = s.device := rfl
@[simp] theorem setSlot_startResult (s : State) (i : Slot) (r : SlotRecord) : (s.setSlot i r).startResult = s.startResult := rfl
@[simp] theorem setSlot_root (s : State) (i : Slot) (r : SlotRecord) : (s.setSlot i r).root = s.root := rfl
@[simp] theorem setSlot_resetHeld (s : State) (i : Slot) (r : SlotRecord) : (s.setSlot i r).resetHeld = s.resetHeld := rfl
@[simp] theorem setSlot_timer (s : State) (i : Slot) (r : SlotRecord) : (s.setSlot i r).timer = s.timer := rfl
@[simp] theorem setSlot_intake (s : State) (i : Slot) (r : SlotRecord) : (s.setSlot i r).intake = s.intake := rfl
@[simp] theorem setSlot_presented (s : State) (i : Slot) (r : SlotRecord) : (s.setSlot i r).presented = s.presented := rfl
@[simp] theorem setSlot_completions (s : State) (i : Slot) (r : SlotRecord) : (s.setSlot i r).completions = s.completions := rfl
@[simp] theorem setSlot_sent (s : State) (i : Slot) (r : SlotRecord) : (s.setSlot i r).sent = s.sent := rfl
@[simp] theorem setSlot_pointer (s : State) (i : Slot) (r : SlotRecord) : (s.setSlot i r).pointer = s.pointer := rfl
@[simp] theorem setSlot_outstanding (s : State) (i : Slot) (r : SlotRecord) : (s.setSlot i r).outstanding = s.outstanding := rfl
@[simp] theorem setSlot_cache (s : State) (i : Slot) (r : SlotRecord) : (s.setSlot i r).cache = s.cache := rfl
@[simp] theorem setSlot_tracker (s : State) (i : Slot) (r : SlotRecord) : (s.setSlot i r).tracker = s.tracker := rfl
@[simp] theorem setSlot_pPool (s : State) (i : Slot) (r : SlotRecord) : (s.setSlot i r).pPool = s.pPool := rfl
@[simp] theorem setSlot_aPool (s : State) (i : Slot) (r : SlotRecord) : (s.setSlot i r).aPool = s.aPool := rfl
@[simp] theorem setSlot_pOut (s : State) (i : Slot) (r : SlotRecord) : (s.setSlot i r).pOut = s.pOut := rfl
@[simp] theorem setSlot_aOut (s : State) (i : Slot) (r : SlotRecord) : (s.setSlot i r).aOut = s.aOut := rfl
@[simp] theorem setSlot_lastServed (s : State) (i : Slot) (r : SlotRecord) : (s.setSlot i r).lastServed = s.lastServed := rfl
@[simp] theorem setSlot_tfu (s : State) (i : Slot) (r : SlotRecord) : (s.setSlot i r).tfu = s.tfu := rfl
@[simp] theorem setSlot_map (s : State) (i : Slot) (r : SlotRecord) : (s.setSlot i r).map = s.map := rfl
@[simp] theorem setSlot_log (s : State) (i : Slot) (r : SlotRecord) : (s.setSlot i r).log = s.log := rfl
@[simp] theorem setSlot_link (s : State) (i : Slot) (r : SlotRecord) : (s.setSlot i r).link = s.link := rfl
@[simp] theorem setSlot_mgmt (s : State) (i : Slot) (r : SlotRecord) : (s.setSlot i r).mgmt = s.mgmt := rfl
@[simp] theorem setSlot_ntc (s : State) (i : Slot) (r : SlotRecord) : (s.setSlot i r).ntc = s.ntc := rfl
@[simp] theorem setSlot_freeCount (s : State) (i : Slot) (r : SlotRecord) : (s.setSlot i r).freeCount = s.freeCount := rfl

/-! ### setQueues -/

@[simp] theorem setQueues_pending (s : State) (i : Slot) (q : Intake) : (s.setQueues i q).pending = s.pending := rfl
@[simp] theorem setQueues_device (s : State) (i : Slot) (q : Intake) : (s.setQueues i q).device = s.device := rfl
@[simp] theorem setQueues_startResult (s : State) (i : Slot) (q : Intake) : (s.setQueues i q).startResult = s.startResult := rfl
@[simp] theorem setQueues_root (s : State) (i : Slot) (q : Intake) : (s.setQueues i q).root = s.root := rfl
@[simp] theorem setQueues_resetHeld (s : State) (i : Slot) (q : Intake) : (s.setQueues i q).resetHeld = s.resetHeld := rfl
@[simp] theorem setQueues_timer (s : State) (i : Slot) (q : Intake) : (s.setQueues i q).timer = s.timer := rfl
@[simp] theorem setQueues_presented (s : State) (i : Slot) (q : Intake) : (s.setQueues i q).presented = s.presented := rfl
@[simp] theorem setQueues_completions (s : State) (i : Slot) (q : Intake) : (s.setQueues i q).completions = s.completions := rfl
@[simp] theorem setQueues_sent (s : State) (i : Slot) (q : Intake) : (s.setQueues i q).sent = s.sent := rfl
@[simp] theorem setQueues_pointer (s : State) (i : Slot) (q : Intake) : (s.setQueues i q).pointer = s.pointer := rfl
@[simp] theorem setQueues_outstanding (s : State) (i : Slot) (q : Intake) : (s.setQueues i q).outstanding = s.outstanding := rfl
@[simp] theorem setQueues_slots (s : State) (i : Slot) (q : Intake) : (s.setQueues i q).slots = s.slots := rfl
@[simp] theorem setQueues_cache (s : State) (i : Slot) (q : Intake) : (s.setQueues i q).cache = s.cache := rfl
@[simp] theorem setQueues_tracker (s : State) (i : Slot) (q : Intake) : (s.setQueues i q).tracker = s.tracker := rfl
@[simp] theorem setQueues_pPool (s : State) (i : Slot) (q : Intake) : (s.setQueues i q).pPool = s.pPool := rfl
@[simp] theorem setQueues_aPool (s : State) (i : Slot) (q : Intake) : (s.setQueues i q).aPool = s.aPool := rfl
@[simp] theorem setQueues_pOut (s : State) (i : Slot) (q : Intake) : (s.setQueues i q).pOut = s.pOut := rfl
@[simp] theorem setQueues_aOut (s : State) (i : Slot) (q : Intake) : (s.setQueues i q).aOut = s.aOut := rfl
@[simp] theorem setQueues_lastServed (s : State) (i : Slot) (q : Intake) : (s.setQueues i q).lastServed = s.lastServed := rfl
@[simp] theorem setQueues_tfu (s : State) (i : Slot) (q : Intake) : (s.setQueues i q).tfu = s.tfu := rfl
@[simp] theorem setQueues_map (s : State) (i : Slot) (q : Intake) : (s.setQueues i q).map = s.map := rfl
@[simp] theorem setQueues_log (s : State) (i : Slot) (q : Intake) : (s.setQueues i q).log = s.log := rfl
@[simp] theorem setQueues_link (s : State) (i : Slot) (q : Intake) : (s.setQueues i q).link = s.link := rfl
@[simp] theorem setQueues_mgmt (s : State) (i : Slot) (q : Intake) : (s.setQueues i q).mgmt = s.mgmt := rfl
@[simp] theorem setQueues_ntc (s : State) (i : Slot) (q : Intake) : (s.setQueues i q).ntc = s.ntc := rfl
@[simp] theorem setQueues_freeCount (s : State) (i : Slot) (q : Intake) : (s.setQueues i q).freeCount = s.freeCount := rfl

/-! ### setSlotState -/

@[simp] theorem setSlotState_pending (s : State) (i : Slot) (st : SlotState) : (s.setSlotState i st).pending = s.pending := rfl
@[simp] theorem setSlotState_device (s : State) (i : Slot) (st : SlotState) : (s.setSlotState i st).device = s.device := rfl
@[simp] theorem setSlotState_startResult (s : State) (i : Slot) (st : SlotState) : (s.setSlotState i st).startResult = s.startResult := rfl
@[simp] theorem setSlotState_root (s : State) (i : Slot) (st : SlotState) : (s.setSlotState i st).root = s.root := rfl
@[simp] theorem setSlotState_resetHeld (s : State) (i : Slot) (st : SlotState) : (s.setSlotState i st).resetHeld = s.resetHeld := rfl
@[simp] theorem setSlotState_timer (s : State) (i : Slot) (st : SlotState) : (s.setSlotState i st).timer = s.timer := rfl
@[simp] theorem setSlotState_intake (s : State) (i : Slot) (st : SlotState) : (s.setSlotState i st).intake = s.intake := rfl
@[simp] theorem setSlotState_presented (s : State) (i : Slot) (st : SlotState) : (s.setSlotState i st).presented = s.presented := rfl
@[simp] theorem setSlotState_completions (s : State) (i : Slot) (st : SlotState) : (s.setSlotState i st).completions = s.completions := rfl
@[simp] theorem setSlotState_sent (s : State) (i : Slot) (st : SlotState) : (s.setSlotState i st).sent = s.sent := rfl
@[simp] theorem setSlotState_pointer (s : State) (i : Slot) (st : SlotState) : (s.setSlotState i st).pointer = s.pointer := rfl
@[simp] theorem setSlotState_outstanding (s : State) (i : Slot) (st : SlotState) : (s.setSlotState i st).outstanding = s.outstanding := rfl
@[simp] theorem setSlotState_cache (s : State) (i : Slot) (st : SlotState) : (s.setSlotState i st).cache = s.cache := rfl
@[simp] theorem setSlotState_tracker (s : State) (i : Slot) (st : SlotState) : (s.setSlotState i st).tracker = s.tracker := rfl
@[simp] theorem setSlotState_pPool (s : State) (i : Slot) (st : SlotState) : (s.setSlotState i st).pPool = s.pPool := rfl
@[simp] theorem setSlotState_aPool (s : State) (i : Slot) (st : SlotState) : (s.setSlotState i st).aPool = s.aPool := rfl
@[simp] theorem setSlotState_pOut (s : State) (i : Slot) (st : SlotState) : (s.setSlotState i st).pOut = s.pOut := rfl
@[simp] theorem setSlotState_aOut (s : State) (i : Slot) (st : SlotState) : (s.setSlotState i st).aOut = s.aOut := rfl
@[simp] theorem setSlotState_lastServed (s : State) (i : Slot) (st : SlotState) : (s.setSlotState i st).lastServed = s.lastServed := rfl
@[simp] theorem setSlotState_tfu (s : State) (i : Slot) (st : SlotState) : (s.setSlotState i st).tfu = s.tfu := rfl
@[simp] theorem setSlotState_map (s : State) (i : Slot) (st : SlotState) : (s.setSlotState i st).map = s.map := rfl
@[simp] theorem setSlotState_log (s : State) (i : Slot) (st : SlotState) : (s.setSlotState i st).log = s.log := rfl
@[simp] theorem setSlotState_link (s : State) (i : Slot) (st : SlotState) : (s.setSlotState i st).link = s.link := rfl
@[simp] theorem setSlotState_mgmt (s : State) (i : Slot) (st : SlotState) : (s.setSlotState i st).mgmt = s.mgmt := rfl
@[simp] theorem setSlotState_ntc (s : State) (i : Slot) (st : SlotState) : (s.setSlotState i st).ntc = s.ntc := rfl
@[simp] theorem setSlotState_freeCount (s : State) (i : Slot) (st : SlotState) : (s.setSlotState i st).freeCount = s.freeCount := rfl

/-! ### setSwitch -/

@[simp] theorem setSwitch_pending (s : State) (i : Slot) (sw : Option SwitchRec) : (s.setSwitch i sw).pending = s.pending := rfl
@[simp] theorem setSwitch_device (s : State) (i : Slot) (sw : Option SwitchRec) : (s.setSwitch i sw).device = s.device := rfl
@[simp] theorem setSwitch_startResult (s : State) (i : Slot) (sw : Option SwitchRec) : (s.setSwitch i sw).startResult = s.startResult := rfl
@[simp] theorem setSwitch_root (s : State) (i : Slot) (sw : Option SwitchRec) : (s.setSwitch i sw).root = s.root := rfl
@[simp] theorem setSwitch_resetHeld (s : State) (i : Slot) (sw : Option SwitchRec) : (s.setSwitch i sw).resetHeld = s.resetHeld := rfl
@[simp] theorem setSwitch_timer (s : State) (i : Slot) (sw : Option SwitchRec) : (s.setSwitch i sw).timer = s.timer := rfl
@[simp] theorem setSwitch_intake (s : State) (i : Slot) (sw : Option SwitchRec) : (s.setSwitch i sw).intake = s.intake := rfl
@[simp] theorem setSwitch_presented (s : State) (i : Slot) (sw : Option SwitchRec) : (s.setSwitch i sw).presented = s.presented := rfl
@[simp] theorem setSwitch_completions (s : State) (i : Slot) (sw : Option SwitchRec) : (s.setSwitch i sw).completions = s.completions := rfl
@[simp] theorem setSwitch_sent (s : State) (i : Slot) (sw : Option SwitchRec) : (s.setSwitch i sw).sent = s.sent := rfl
@[simp] theorem setSwitch_pointer (s : State) (i : Slot) (sw : Option SwitchRec) : (s.setSwitch i sw).pointer = s.pointer := rfl
@[simp] theorem setSwitch_outstanding (s : State) (i : Slot) (sw : Option SwitchRec) : (s.setSwitch i sw).outstanding = s.outstanding := rfl
@[simp] theorem setSwitch_cache (s : State) (i : Slot) (sw : Option SwitchRec) : (s.setSwitch i sw).cache = s.cache := rfl
@[simp] theorem setSwitch_tracker (s : State) (i : Slot) (sw : Option SwitchRec) : (s.setSwitch i sw).tracker = s.tracker := rfl
@[simp] theorem setSwitch_pPool (s : State) (i : Slot) (sw : Option SwitchRec) : (s.setSwitch i sw).pPool = s.pPool := rfl
@[simp] theorem setSwitch_aPool (s : State) (i : Slot) (sw : Option SwitchRec) : (s.setSwitch i sw).aPool = s.aPool := rfl
@[simp] theorem setSwitch_pOut (s : State) (i : Slot) (sw : Option SwitchRec) : (s.setSwitch i sw).pOut = s.pOut := rfl
@[simp] theorem setSwitch_aOut (s : State) (i : Slot) (sw : Option SwitchRec) : (s.setSwitch i sw).aOut = s.aOut := rfl
@[simp] theorem setSwitch_lastServed (s : State) (i : Slot) (sw : Option SwitchRec) : (s.setSwitch i sw).lastServed = s.lastServed := rfl
@[simp] theorem setSwitch_tfu (s : State) (i : Slot) (sw : Option SwitchRec) : (s.setSwitch i sw).tfu = s.tfu := rfl
@[simp] theorem setSwitch_map (s : State) (i : Slot) (sw : Option SwitchRec) : (s.setSwitch i sw).map = s.map := rfl
@[simp] theorem setSwitch_log (s : State) (i : Slot) (sw : Option SwitchRec) : (s.setSwitch i sw).log = s.log := rfl
@[simp] theorem setSwitch_link (s : State) (i : Slot) (sw : Option SwitchRec) : (s.setSwitch i sw).link = s.link := rfl
@[simp] theorem setSwitch_mgmt (s : State) (i : Slot) (sw : Option SwitchRec) : (s.setSwitch i sw).mgmt = s.mgmt := rfl
@[simp] theorem setSwitch_ntc (s : State) (i : Slot) (sw : Option SwitchRec) : (s.setSwitch i sw).ntc = s.ntc := rfl
@[simp] theorem setSwitch_freeCount (s : State) (i : Slot) (sw : Option SwitchRec) : (s.setSwitch i sw).freeCount = s.freeCount := rfl

/-! ### logFault -/

@[simp] theorem logFault_pending (s : State) (f : FaultRecord) : (s.logFault f).pending = s.pending := rfl
@[simp] theorem logFault_device (s : State) (f : FaultRecord) : (s.logFault f).device = s.device := rfl
@[simp] theorem logFault_startResult (s : State) (f : FaultRecord) : (s.logFault f).startResult = s.startResult := rfl
@[simp] theorem logFault_root (s : State) (f : FaultRecord) : (s.logFault f).root = s.root := rfl
@[simp] theorem logFault_resetHeld (s : State) (f : FaultRecord) : (s.logFault f).resetHeld = s.resetHeld := rfl
@[simp] theorem logFault_timer (s : State) (f : FaultRecord) : (s.logFault f).timer = s.timer := rfl
@[simp] theorem logFault_intake (s : State) (f : FaultRecord) : (s.logFault f).intake = s.intake := rfl
@[simp] theorem logFault_presented (s : State) (f : FaultRecord) : (s.logFault f).presented = s.presented := rfl
@[simp] theorem logFault_completions (s : State) (f : FaultRecord) : (s.logFault f).completions = s.completions := rfl
@[simp] theorem logFault_sent (s : State) (f : FaultRecord) : (s.logFault f).sent = s.sent := rfl
@[simp] theorem logFault_pointer (s : State) (f : FaultRecord) : (s.logFault f).pointer = s.pointer := rfl
@[simp] theorem logFault_outstanding (s : State) (f : FaultRecord) : (s.logFault f).outstanding = s.outstanding := rfl
@[simp] theorem logFault_slots (s : State) (f : FaultRecord) : (s.logFault f).slots = s.slots := rfl
@[simp] theorem logFault_cache (s : State) (f : FaultRecord) : (s.logFault f).cache = s.cache := rfl
@[simp] theorem logFault_tracker (s : State) (f : FaultRecord) : (s.logFault f).tracker = s.tracker := rfl
@[simp] theorem logFault_pPool (s : State) (f : FaultRecord) : (s.logFault f).pPool = s.pPool := rfl
@[simp] theorem logFault_aPool (s : State) (f : FaultRecord) : (s.logFault f).aPool = s.aPool := rfl
@[simp] theorem logFault_pOut (s : State) (f : FaultRecord) : (s.logFault f).pOut = s.pOut := rfl
@[simp] theorem logFault_aOut (s : State) (f : FaultRecord) : (s.logFault f).aOut = s.aOut := rfl
@[simp] theorem logFault_lastServed (s : State) (f : FaultRecord) : (s.logFault f).lastServed = s.lastServed := rfl
@[simp] theorem logFault_tfu (s : State) (f : FaultRecord) : (s.logFault f).tfu = s.tfu := rfl
@[simp] theorem logFault_map (s : State) (f : FaultRecord) : (s.logFault f).map = s.map := rfl
@[simp] theorem logFault_link (s : State) (f : FaultRecord) : (s.logFault f).link = s.link := rfl
@[simp] theorem logFault_mgmt (s : State) (f : FaultRecord) : (s.logFault f).mgmt = s.mgmt := rfl
@[simp] theorem logFault_ntc (s : State) (f : FaultRecord) : (s.logFault f).ntc = s.ntc := rfl
@[simp] theorem logFault_freeCount (s : State) (f : FaultRecord) : (s.logFault f).freeCount = s.freeCount := rfl

/-! ### form -/

@[simp] theorem form_pending (s : State) (c : Completion) : (s.form c).pending = s.pending := rfl
@[simp] theorem form_device (s : State) (c : Completion) : (s.form c).device = s.device := rfl
@[simp] theorem form_startResult (s : State) (c : Completion) : (s.form c).startResult = s.startResult := rfl
@[simp] theorem form_root (s : State) (c : Completion) : (s.form c).root = s.root := rfl
@[simp] theorem form_resetHeld (s : State) (c : Completion) : (s.form c).resetHeld = s.resetHeld := rfl
@[simp] theorem form_timer (s : State) (c : Completion) : (s.form c).timer = s.timer := rfl
@[simp] theorem form_intake (s : State) (c : Completion) : (s.form c).intake = s.intake := rfl
@[simp] theorem form_presented (s : State) (c : Completion) : (s.form c).presented = s.presented := rfl
@[simp] theorem form_sent (s : State) (c : Completion) : (s.form c).sent = s.sent := rfl
@[simp] theorem form_pointer (s : State) (c : Completion) : (s.form c).pointer = s.pointer := rfl
@[simp] theorem form_outstanding (s : State) (c : Completion) : (s.form c).outstanding = s.outstanding := rfl
@[simp] theorem form_slots (s : State) (c : Completion) : (s.form c).slots = s.slots := rfl
@[simp] theorem form_cache (s : State) (c : Completion) : (s.form c).cache = s.cache := rfl
@[simp] theorem form_tracker (s : State) (c : Completion) : (s.form c).tracker = s.tracker := rfl
@[simp] theorem form_pPool (s : State) (c : Completion) : (s.form c).pPool = s.pPool := rfl
@[simp] theorem form_aPool (s : State) (c : Completion) : (s.form c).aPool = s.aPool := rfl
@[simp] theorem form_pOut (s : State) (c : Completion) : (s.form c).pOut = s.pOut := rfl
@[simp] theorem form_aOut (s : State) (c : Completion) : (s.form c).aOut = s.aOut := rfl
@[simp] theorem form_lastServed (s : State) (c : Completion) : (s.form c).lastServed = s.lastServed := rfl
@[simp] theorem form_tfu (s : State) (c : Completion) : (s.form c).tfu = s.tfu := rfl
@[simp] theorem form_map (s : State) (c : Completion) : (s.form c).map = s.map := rfl
@[simp] theorem form_log (s : State) (c : Completion) : (s.form c).log = s.log := rfl
@[simp] theorem form_link (s : State) (c : Completion) : (s.form c).link = s.link := rfl
@[simp] theorem form_mgmt (s : State) (c : Completion) : (s.form c).mgmt = s.mgmt := rfl
@[simp] theorem form_ntc (s : State) (c : Completion) : (s.form c).ntc = s.ntc := rfl
@[simp] theorem form_freeCount (s : State) (c : Completion) : (s.form c).freeCount = s.freeCount := rfl

/-! ### setSticky -/

@[simp] theorem setSticky_pending (s : State) (b : BitVec 3) : (s.setSticky b).pending = s.pending := rfl
@[simp] theorem setSticky_device (s : State) (b : BitVec 3) : (s.setSticky b).device = s.device := rfl
@[simp] theorem setSticky_startResult (s : State) (b : BitVec 3) : (s.setSticky b).startResult = s.startResult := rfl
@[simp] theorem setSticky_root (s : State) (b : BitVec 3) : (s.setSticky b).root = s.root := rfl
@[simp] theorem setSticky_resetHeld (s : State) (b : BitVec 3) : (s.setSticky b).resetHeld = s.resetHeld := rfl
@[simp] theorem setSticky_timer (s : State) (b : BitVec 3) : (s.setSticky b).timer = s.timer := rfl
@[simp] theorem setSticky_intake (s : State) (b : BitVec 3) : (s.setSticky b).intake = s.intake := rfl
@[simp] theorem setSticky_presented (s : State) (b : BitVec 3) : (s.setSticky b).presented = s.presented := rfl
@[simp] theorem setSticky_completions (s : State) (b : BitVec 3) : (s.setSticky b).completions = s.completions := rfl
@[simp] theorem setSticky_sent (s : State) (b : BitVec 3) : (s.setSticky b).sent = s.sent := rfl
@[simp] theorem setSticky_pointer (s : State) (b : BitVec 3) : (s.setSticky b).pointer = s.pointer := rfl
@[simp] theorem setSticky_outstanding (s : State) (b : BitVec 3) : (s.setSticky b).outstanding = s.outstanding := rfl
@[simp] theorem setSticky_slots (s : State) (b : BitVec 3) : (s.setSticky b).slots = s.slots := rfl
@[simp] theorem setSticky_cache (s : State) (b : BitVec 3) : (s.setSticky b).cache = s.cache := rfl
@[simp] theorem setSticky_tracker (s : State) (b : BitVec 3) : (s.setSticky b).tracker = s.tracker := rfl
@[simp] theorem setSticky_pPool (s : State) (b : BitVec 3) : (s.setSticky b).pPool = s.pPool := rfl
@[simp] theorem setSticky_aPool (s : State) (b : BitVec 3) : (s.setSticky b).aPool = s.aPool := rfl
@[simp] theorem setSticky_pOut (s : State) (b : BitVec 3) : (s.setSticky b).pOut = s.pOut := rfl
@[simp] theorem setSticky_aOut (s : State) (b : BitVec 3) : (s.setSticky b).aOut = s.aOut := rfl
@[simp] theorem setSticky_lastServed (s : State) (b : BitVec 3) : (s.setSticky b).lastServed = s.lastServed := rfl
@[simp] theorem setSticky_tfu (s : State) (b : BitVec 3) : (s.setSticky b).tfu = s.tfu := rfl
@[simp] theorem setSticky_map (s : State) (b : BitVec 3) : (s.setSticky b).map = s.map := rfl
@[simp] theorem setSticky_log (s : State) (b : BitVec 3) : (s.setSticky b).log = s.log := rfl
@[simp] theorem setSticky_link (s : State) (b : BitVec 3) : (s.setSticky b).link = s.link := rfl
@[simp] theorem setSticky_ntc (s : State) (b : BitVec 3) : (s.setSticky b).ntc = s.ntc := rfl
@[simp] theorem setSticky_freeCount (s : State) (b : BitVec 3) : (s.setSticky b).freeCount = s.freeCount := rfl

/-! ### endForce -/

@[simp] theorem endForce_pending (s : State) (i : Slot) (c : ResultCode) : (s.endForce i c).pending = s.pending := rfl
@[simp] theorem endForce_device (s : State) (i : Slot) (c : ResultCode) : (s.endForce i c).device = s.device := rfl
@[simp] theorem endForce_startResult (s : State) (i : Slot) (c : ResultCode) : (s.endForce i c).startResult = s.startResult := rfl
@[simp] theorem endForce_root (s : State) (i : Slot) (c : ResultCode) : (s.endForce i c).root = s.root := rfl
@[simp] theorem endForce_resetHeld (s : State) (i : Slot) (c : ResultCode) : (s.endForce i c).resetHeld = s.resetHeld := rfl
@[simp] theorem endForce_timer (s : State) (i : Slot) (c : ResultCode) : (s.endForce i c).timer = s.timer := rfl
@[simp] theorem endForce_intake (s : State) (i : Slot) (c : ResultCode) : (s.endForce i c).intake = s.intake := rfl
@[simp] theorem endForce_presented (s : State) (i : Slot) (c : ResultCode) : (s.endForce i c).presented = s.presented := rfl
@[simp] theorem endForce_completions (s : State) (i : Slot) (c : ResultCode) : (s.endForce i c).completions = s.completions := rfl
@[simp] theorem endForce_sent (s : State) (i : Slot) (c : ResultCode) : (s.endForce i c).sent = s.sent := rfl
@[simp] theorem endForce_pointer (s : State) (i : Slot) (c : ResultCode) : (s.endForce i c).pointer = s.pointer := rfl
@[simp] theorem endForce_outstanding (s : State) (i : Slot) (c : ResultCode) : (s.endForce i c).outstanding = s.outstanding := rfl
@[simp] theorem endForce_cache (s : State) (i : Slot) (c : ResultCode) : (s.endForce i c).cache = s.cache := rfl
@[simp] theorem endForce_tracker (s : State) (i : Slot) (c : ResultCode) : (s.endForce i c).tracker = s.tracker := rfl
@[simp] theorem endForce_pPool (s : State) (i : Slot) (c : ResultCode) : (s.endForce i c).pPool = s.pPool := rfl
@[simp] theorem endForce_aPool (s : State) (i : Slot) (c : ResultCode) : (s.endForce i c).aPool = s.aPool := rfl
@[simp] theorem endForce_pOut (s : State) (i : Slot) (c : ResultCode) : (s.endForce i c).pOut = s.pOut := rfl
@[simp] theorem endForce_aOut (s : State) (i : Slot) (c : ResultCode) : (s.endForce i c).aOut = s.aOut := rfl
@[simp] theorem endForce_lastServed (s : State) (i : Slot) (c : ResultCode) : (s.endForce i c).lastServed = s.lastServed := rfl
@[simp] theorem endForce_tfu (s : State) (i : Slot) (c : ResultCode) : (s.endForce i c).tfu = s.tfu := rfl
@[simp] theorem endForce_map (s : State) (i : Slot) (c : ResultCode) : (s.endForce i c).map = s.map := rfl
@[simp] theorem endForce_log (s : State) (i : Slot) (c : ResultCode) : (s.endForce i c).log = s.log := rfl
@[simp] theorem endForce_link (s : State) (i : Slot) (c : ResultCode) : (s.endForce i c).link = s.link := rfl
@[simp] theorem endForce_ntc (s : State) (i : Slot) (c : ResultCode) : (s.endForce i c).ntc = s.ntc := rfl
@[simp] theorem endForce_freeCount (s : State) (i : Slot) (c : ResultCode) : (s.endForce i c).freeCount = s.freeCount := rfl

/-! ### freeStaged -/

@[simp] theorem freeStaged_pending (s : State) (i : Slot) : (s.freeStaged i).pending = s.pending := rfl
@[simp] theorem freeStaged_device (s : State) (i : Slot) : (s.freeStaged i).device = s.device := rfl
@[simp] theorem freeStaged_startResult (s : State) (i : Slot) : (s.freeStaged i).startResult = s.startResult := rfl
@[simp] theorem freeStaged_root (s : State) (i : Slot) : (s.freeStaged i).root = s.root := rfl
@[simp] theorem freeStaged_resetHeld (s : State) (i : Slot) : (s.freeStaged i).resetHeld = s.resetHeld := rfl
@[simp] theorem freeStaged_timer (s : State) (i : Slot) : (s.freeStaged i).timer = s.timer := rfl
@[simp] theorem freeStaged_intake (s : State) (i : Slot) : (s.freeStaged i).intake = s.intake := rfl
@[simp] theorem freeStaged_presented (s : State) (i : Slot) : (s.freeStaged i).presented = s.presented := rfl
@[simp] theorem freeStaged_completions (s : State) (i : Slot) : (s.freeStaged i).completions = s.completions := rfl
@[simp] theorem freeStaged_sent (s : State) (i : Slot) : (s.freeStaged i).sent = s.sent := rfl
@[simp] theorem freeStaged_pointer (s : State) (i : Slot) : (s.freeStaged i).pointer = s.pointer := rfl
@[simp] theorem freeStaged_outstanding (s : State) (i : Slot) : (s.freeStaged i).outstanding = s.outstanding := rfl
@[simp] theorem freeStaged_slots (s : State) (i : Slot) : (s.freeStaged i).slots = s.slots := rfl
@[simp] theorem freeStaged_tracker (s : State) (i : Slot) : (s.freeStaged i).tracker = s.tracker := rfl
@[simp] theorem freeStaged_pPool (s : State) (i : Slot) : (s.freeStaged i).pPool = s.pPool := rfl
@[simp] theorem freeStaged_aPool (s : State) (i : Slot) : (s.freeStaged i).aPool = s.aPool := rfl
@[simp] theorem freeStaged_pOut (s : State) (i : Slot) : (s.freeStaged i).pOut = s.pOut := rfl
@[simp] theorem freeStaged_aOut (s : State) (i : Slot) : (s.freeStaged i).aOut = s.aOut := rfl
@[simp] theorem freeStaged_lastServed (s : State) (i : Slot) : (s.freeStaged i).lastServed = s.lastServed := rfl
@[simp] theorem freeStaged_tfu (s : State) (i : Slot) : (s.freeStaged i).tfu = s.tfu := rfl
@[simp] theorem freeStaged_map (s : State) (i : Slot) : (s.freeStaged i).map = s.map := rfl
@[simp] theorem freeStaged_log (s : State) (i : Slot) : (s.freeStaged i).log = s.log := rfl
@[simp] theorem freeStaged_link (s : State) (i : Slot) : (s.freeStaged i).link = s.link := rfl
@[simp] theorem freeStaged_mgmt (s : State) (i : Slot) : (s.freeStaged i).mgmt = s.mgmt := rfl
@[simp] theorem freeStaged_ntc (s : State) (i : Slot) : (s.freeStaged i).ntc = s.ntc := rfl
@[simp] theorem freeStaged_freeCount (s : State) (i : Slot) : (s.freeStaged i).freeCount = s.freeCount := rfl

/-! ### freeCommitted -/

@[simp] theorem freeCommitted_pending (s : State) (i : Slot) : (s.freeCommitted i).pending = s.pending := rfl
@[simp] theorem freeCommitted_device (s : State) (i : Slot) : (s.freeCommitted i).device = s.device := rfl
@[simp] theorem freeCommitted_startResult (s : State) (i : Slot) : (s.freeCommitted i).startResult = s.startResult := rfl
@[simp] theorem freeCommitted_root (s : State) (i : Slot) : (s.freeCommitted i).root = s.root := rfl
@[simp] theorem freeCommitted_resetHeld (s : State) (i : Slot) : (s.freeCommitted i).resetHeld = s.resetHeld := rfl
@[simp] theorem freeCommitted_timer (s : State) (i : Slot) : (s.freeCommitted i).timer = s.timer := rfl
@[simp] theorem freeCommitted_intake (s : State) (i : Slot) : (s.freeCommitted i).intake = s.intake := rfl
@[simp] theorem freeCommitted_presented (s : State) (i : Slot) : (s.freeCommitted i).presented = s.presented := rfl
@[simp] theorem freeCommitted_completions (s : State) (i : Slot) : (s.freeCommitted i).completions = s.completions := rfl
@[simp] theorem freeCommitted_sent (s : State) (i : Slot) : (s.freeCommitted i).sent = s.sent := rfl
@[simp] theorem freeCommitted_pointer (s : State) (i : Slot) : (s.freeCommitted i).pointer = s.pointer := rfl
@[simp] theorem freeCommitted_outstanding (s : State) (i : Slot) : (s.freeCommitted i).outstanding = s.outstanding := rfl
@[simp] theorem freeCommitted_slots (s : State) (i : Slot) : (s.freeCommitted i).slots = s.slots := rfl
@[simp] theorem freeCommitted_tracker (s : State) (i : Slot) : (s.freeCommitted i).tracker = s.tracker := rfl
@[simp] theorem freeCommitted_pPool (s : State) (i : Slot) : (s.freeCommitted i).pPool = s.pPool := rfl
@[simp] theorem freeCommitted_aPool (s : State) (i : Slot) : (s.freeCommitted i).aPool = s.aPool := rfl
@[simp] theorem freeCommitted_pOut (s : State) (i : Slot) : (s.freeCommitted i).pOut = s.pOut := rfl
@[simp] theorem freeCommitted_aOut (s : State) (i : Slot) : (s.freeCommitted i).aOut = s.aOut := rfl
@[simp] theorem freeCommitted_lastServed (s : State) (i : Slot) : (s.freeCommitted i).lastServed = s.lastServed := rfl
@[simp] theorem freeCommitted_tfu (s : State) (i : Slot) : (s.freeCommitted i).tfu = s.tfu := rfl
@[simp] theorem freeCommitted_map (s : State) (i : Slot) : (s.freeCommitted i).map = s.map := rfl
@[simp] theorem freeCommitted_log (s : State) (i : Slot) : (s.freeCommitted i).log = s.log := rfl
@[simp] theorem freeCommitted_link (s : State) (i : Slot) : (s.freeCommitted i).link = s.link := rfl
@[simp] theorem freeCommitted_mgmt (s : State) (i : Slot) : (s.freeCommitted i).mgmt = s.mgmt := rfl
@[simp] theorem freeCommitted_ntc (s : State) (i : Slot) : (s.freeCommitted i).ntc = s.ntc := rfl
@[simp] theorem freeCommitted_freeCount (s : State) (i : Slot) : (s.freeCommitted i).freeCount = s.freeCount := rfl

/-! ### commitCache -/

@[simp] theorem commitCache_pending (s : State) (i : Slot) : (s.commitCache i).pending = s.pending := rfl
@[simp] theorem commitCache_device (s : State) (i : Slot) : (s.commitCache i).device = s.device := rfl
@[simp] theorem commitCache_startResult (s : State) (i : Slot) : (s.commitCache i).startResult = s.startResult := rfl
@[simp] theorem commitCache_root (s : State) (i : Slot) : (s.commitCache i).root = s.root := rfl
@[simp] theorem commitCache_resetHeld (s : State) (i : Slot) : (s.commitCache i).resetHeld = s.resetHeld := rfl
@[simp] theorem commitCache_timer (s : State) (i : Slot) : (s.commitCache i).timer = s.timer := rfl
@[simp] theorem commitCache_intake (s : State) (i : Slot) : (s.commitCache i).intake = s.intake := rfl
@[simp] theorem commitCache_presented (s : State) (i : Slot) : (s.commitCache i).presented = s.presented := rfl
@[simp] theorem commitCache_completions (s : State) (i : Slot) : (s.commitCache i).completions = s.completions := rfl
@[simp] theorem commitCache_sent (s : State) (i : Slot) : (s.commitCache i).sent = s.sent := rfl
@[simp] theorem commitCache_pointer (s : State) (i : Slot) : (s.commitCache i).pointer = s.pointer := rfl
@[simp] theorem commitCache_outstanding (s : State) (i : Slot) : (s.commitCache i).outstanding = s.outstanding := rfl
@[simp] theorem commitCache_slots (s : State) (i : Slot) : (s.commitCache i).slots = s.slots := rfl
@[simp] theorem commitCache_tracker (s : State) (i : Slot) : (s.commitCache i).tracker = s.tracker := rfl
@[simp] theorem commitCache_pPool (s : State) (i : Slot) : (s.commitCache i).pPool = s.pPool := rfl
@[simp] theorem commitCache_aPool (s : State) (i : Slot) : (s.commitCache i).aPool = s.aPool := rfl
@[simp] theorem commitCache_pOut (s : State) (i : Slot) : (s.commitCache i).pOut = s.pOut := rfl
@[simp] theorem commitCache_aOut (s : State) (i : Slot) : (s.commitCache i).aOut = s.aOut := rfl
@[simp] theorem commitCache_lastServed (s : State) (i : Slot) : (s.commitCache i).lastServed = s.lastServed := rfl
@[simp] theorem commitCache_tfu (s : State) (i : Slot) : (s.commitCache i).tfu = s.tfu := rfl
@[simp] theorem commitCache_map (s : State) (i : Slot) : (s.commitCache i).map = s.map := rfl
@[simp] theorem commitCache_log (s : State) (i : Slot) : (s.commitCache i).log = s.log := rfl
@[simp] theorem commitCache_link (s : State) (i : Slot) : (s.commitCache i).link = s.link := rfl
@[simp] theorem commitCache_mgmt (s : State) (i : Slot) : (s.commitCache i).mgmt = s.mgmt := rfl
@[simp] theorem commitCache_ntc (s : State) (i : Slot) : (s.commitCache i).ntc = s.ntc := rfl
@[simp] theorem commitCache_freeCount (s : State) (i : Slot) : (s.commitCache i).freeCount = s.freeCount := rfl

/-! ### unreserve -/

@[simp] theorem unreserve_pending (s : State) (i : Slot) : (s.unreserve i).pending = s.pending := rfl
@[simp] theorem unreserve_device (s : State) (i : Slot) : (s.unreserve i).device = s.device := rfl
@[simp] theorem unreserve_startResult (s : State) (i : Slot) : (s.unreserve i).startResult = s.startResult := rfl
@[simp] theorem unreserve_root (s : State) (i : Slot) : (s.unreserve i).root = s.root := rfl
@[simp] theorem unreserve_resetHeld (s : State) (i : Slot) : (s.unreserve i).resetHeld = s.resetHeld := rfl
@[simp] theorem unreserve_timer (s : State) (i : Slot) : (s.unreserve i).timer = s.timer := rfl
@[simp] theorem unreserve_intake (s : State) (i : Slot) : (s.unreserve i).intake = s.intake := rfl
@[simp] theorem unreserve_presented (s : State) (i : Slot) : (s.unreserve i).presented = s.presented := rfl
@[simp] theorem unreserve_completions (s : State) (i : Slot) : (s.unreserve i).completions = s.completions := rfl
@[simp] theorem unreserve_sent (s : State) (i : Slot) : (s.unreserve i).sent = s.sent := rfl
@[simp] theorem unreserve_pointer (s : State) (i : Slot) : (s.unreserve i).pointer = s.pointer := rfl
@[simp] theorem unreserve_outstanding (s : State) (i : Slot) : (s.unreserve i).outstanding = s.outstanding := rfl
@[simp] theorem unreserve_slots (s : State) (i : Slot) : (s.unreserve i).slots = s.slots := rfl
@[simp] theorem unreserve_cache (s : State) (i : Slot) : (s.unreserve i).cache = s.cache := rfl
@[simp] theorem unreserve_tracker (s : State) (i : Slot) : (s.unreserve i).tracker = s.tracker := rfl
@[simp] theorem unreserve_pPool (s : State) (i : Slot) : (s.unreserve i).pPool = s.pPool := rfl
@[simp] theorem unreserve_aPool (s : State) (i : Slot) : (s.unreserve i).aPool = s.aPool := rfl
@[simp] theorem unreserve_pOut (s : State) (i : Slot) : (s.unreserve i).pOut = s.pOut := rfl
@[simp] theorem unreserve_aOut (s : State) (i : Slot) : (s.unreserve i).aOut = s.aOut := rfl
@[simp] theorem unreserve_lastServed (s : State) (i : Slot) : (s.unreserve i).lastServed = s.lastServed := rfl
@[simp] theorem unreserve_tfu (s : State) (i : Slot) : (s.unreserve i).tfu = s.tfu := rfl
@[simp] theorem unreserve_log (s : State) (i : Slot) : (s.unreserve i).log = s.log := rfl
@[simp] theorem unreserve_link (s : State) (i : Slot) : (s.unreserve i).link = s.link := rfl
@[simp] theorem unreserve_mgmt (s : State) (i : Slot) : (s.unreserve i).mgmt = s.mgmt := rfl
@[simp] theorem unreserve_ntc (s : State) (i : Slot) : (s.unreserve i).ntc = s.ntc := rfl
@[simp] theorem unreserve_freeCount (s : State) (i : Slot) : (s.unreserve i).freeCount = s.freeCount := rfl

/-! ### dropEntries -/

@[simp] theorem dropEntries_pending (s : State) (i : Slot) : (s.dropEntries i).pending = s.pending := rfl
@[simp] theorem dropEntries_device (s : State) (i : Slot) : (s.dropEntries i).device = s.device := rfl
@[simp] theorem dropEntries_startResult (s : State) (i : Slot) : (s.dropEntries i).startResult = s.startResult := rfl
@[simp] theorem dropEntries_root (s : State) (i : Slot) : (s.dropEntries i).root = s.root := rfl
@[simp] theorem dropEntries_resetHeld (s : State) (i : Slot) : (s.dropEntries i).resetHeld = s.resetHeld := rfl
@[simp] theorem dropEntries_timer (s : State) (i : Slot) : (s.dropEntries i).timer = s.timer := rfl
@[simp] theorem dropEntries_intake (s : State) (i : Slot) : (s.dropEntries i).intake = s.intake := rfl
@[simp] theorem dropEntries_presented (s : State) (i : Slot) : (s.dropEntries i).presented = s.presented := rfl
@[simp] theorem dropEntries_completions (s : State) (i : Slot) : (s.dropEntries i).completions = s.completions := rfl
@[simp] theorem dropEntries_sent (s : State) (i : Slot) : (s.dropEntries i).sent = s.sent := rfl
@[simp] theorem dropEntries_pointer (s : State) (i : Slot) : (s.dropEntries i).pointer = s.pointer := rfl
@[simp] theorem dropEntries_outstanding (s : State) (i : Slot) : (s.dropEntries i).outstanding = s.outstanding := rfl
@[simp] theorem dropEntries_slots (s : State) (i : Slot) : (s.dropEntries i).slots = s.slots := rfl
@[simp] theorem dropEntries_cache (s : State) (i : Slot) : (s.dropEntries i).cache = s.cache := rfl
@[simp] theorem dropEntries_tracker (s : State) (i : Slot) : (s.dropEntries i).tracker = s.tracker := rfl
@[simp] theorem dropEntries_pPool (s : State) (i : Slot) : (s.dropEntries i).pPool = s.pPool := rfl
@[simp] theorem dropEntries_aPool (s : State) (i : Slot) : (s.dropEntries i).aPool = s.aPool := rfl
@[simp] theorem dropEntries_pOut (s : State) (i : Slot) : (s.dropEntries i).pOut = s.pOut := rfl
@[simp] theorem dropEntries_aOut (s : State) (i : Slot) : (s.dropEntries i).aOut = s.aOut := rfl
@[simp] theorem dropEntries_lastServed (s : State) (i : Slot) : (s.dropEntries i).lastServed = s.lastServed := rfl
@[simp] theorem dropEntries_tfu (s : State) (i : Slot) : (s.dropEntries i).tfu = s.tfu := rfl
@[simp] theorem dropEntries_log (s : State) (i : Slot) : (s.dropEntries i).log = s.log := rfl
@[simp] theorem dropEntries_link (s : State) (i : Slot) : (s.dropEntries i).link = s.link := rfl
@[simp] theorem dropEntries_mgmt (s : State) (i : Slot) : (s.dropEntries i).mgmt = s.mgmt := rfl
@[simp] theorem dropEntries_ntc (s : State) (i : Slot) : (s.dropEntries i).ntc = s.ntc := rfl
@[simp] theorem dropEntries_freeCount (s : State) (i : Slot) : (s.dropEntries i).freeCount = s.freeCount := rfl

/-! ### queueTable -/

@[simp] theorem queueTable_pending (s : State) (o : TableOp) : (s.queueTable o).pending = s.pending := rfl
@[simp] theorem queueTable_device (s : State) (o : TableOp) : (s.queueTable o).device = s.device := rfl
@[simp] theorem queueTable_startResult (s : State) (o : TableOp) : (s.queueTable o).startResult = s.startResult := rfl
@[simp] theorem queueTable_root (s : State) (o : TableOp) : (s.queueTable o).root = s.root := rfl
@[simp] theorem queueTable_resetHeld (s : State) (o : TableOp) : (s.queueTable o).resetHeld = s.resetHeld := rfl
@[simp] theorem queueTable_timer (s : State) (o : TableOp) : (s.queueTable o).timer = s.timer := rfl
@[simp] theorem queueTable_intake (s : State) (o : TableOp) : (s.queueTable o).intake = s.intake := rfl
@[simp] theorem queueTable_presented (s : State) (o : TableOp) : (s.queueTable o).presented = s.presented := rfl
@[simp] theorem queueTable_completions (s : State) (o : TableOp) : (s.queueTable o).completions = s.completions := rfl
@[simp] theorem queueTable_sent (s : State) (o : TableOp) : (s.queueTable o).sent = s.sent := rfl
@[simp] theorem queueTable_pointer (s : State) (o : TableOp) : (s.queueTable o).pointer = s.pointer := rfl
@[simp] theorem queueTable_outstanding (s : State) (o : TableOp) : (s.queueTable o).outstanding = s.outstanding := rfl
@[simp] theorem queueTable_slots (s : State) (o : TableOp) : (s.queueTable o).slots = s.slots := rfl
@[simp] theorem queueTable_cache (s : State) (o : TableOp) : (s.queueTable o).cache = s.cache := rfl
@[simp] theorem queueTable_tracker (s : State) (o : TableOp) : (s.queueTable o).tracker = s.tracker := rfl
@[simp] theorem queueTable_pPool (s : State) (o : TableOp) : (s.queueTable o).pPool = s.pPool := rfl
@[simp] theorem queueTable_aPool (s : State) (o : TableOp) : (s.queueTable o).aPool = s.aPool := rfl
@[simp] theorem queueTable_pOut (s : State) (o : TableOp) : (s.queueTable o).pOut = s.pOut := rfl
@[simp] theorem queueTable_aOut (s : State) (o : TableOp) : (s.queueTable o).aOut = s.aOut := rfl
@[simp] theorem queueTable_lastServed (s : State) (o : TableOp) : (s.queueTable o).lastServed = s.lastServed := rfl
@[simp] theorem queueTable_map (s : State) (o : TableOp) : (s.queueTable o).map = s.map := rfl
@[simp] theorem queueTable_log (s : State) (o : TableOp) : (s.queueTable o).log = s.log := rfl
@[simp] theorem queueTable_link (s : State) (o : TableOp) : (s.queueTable o).link = s.link := rfl
@[simp] theorem queueTable_mgmt (s : State) (o : TableOp) : (s.queueTable o).mgmt = s.mgmt := rfl
@[simp] theorem queueTable_ntc (s : State) (o : TableOp) : (s.queueTable o).ntc = s.ntc := rfl
@[simp] theorem queueTable_freeCount (s : State) (o : TableOp) : (s.queueTable o).freeCount = s.freeCount := rfl

/-! ### spendFree -/

@[simp] theorem spendFree_pending (s : State) (n : Nat) : (s.spendFree n).pending = s.pending := rfl
@[simp] theorem spendFree_device (s : State) (n : Nat) : (s.spendFree n).device = s.device := rfl
@[simp] theorem spendFree_startResult (s : State) (n : Nat) : (s.spendFree n).startResult = s.startResult := rfl
@[simp] theorem spendFree_root (s : State) (n : Nat) : (s.spendFree n).root = s.root := rfl
@[simp] theorem spendFree_resetHeld (s : State) (n : Nat) : (s.spendFree n).resetHeld = s.resetHeld := rfl
@[simp] theorem spendFree_timer (s : State) (n : Nat) : (s.spendFree n).timer = s.timer := rfl
@[simp] theorem spendFree_intake (s : State) (n : Nat) : (s.spendFree n).intake = s.intake := rfl
@[simp] theorem spendFree_presented (s : State) (n : Nat) : (s.spendFree n).presented = s.presented := rfl
@[simp] theorem spendFree_completions (s : State) (n : Nat) : (s.spendFree n).completions = s.completions := rfl
@[simp] theorem spendFree_sent (s : State) (n : Nat) : (s.spendFree n).sent = s.sent := rfl
@[simp] theorem spendFree_pointer (s : State) (n : Nat) : (s.spendFree n).pointer = s.pointer := rfl
@[simp] theorem spendFree_outstanding (s : State) (n : Nat) : (s.spendFree n).outstanding = s.outstanding := rfl
@[simp] theorem spendFree_slots (s : State) (n : Nat) : (s.spendFree n).slots = s.slots := rfl
@[simp] theorem spendFree_cache (s : State) (n : Nat) : (s.spendFree n).cache = s.cache := rfl
@[simp] theorem spendFree_tracker (s : State) (n : Nat) : (s.spendFree n).tracker = s.tracker := rfl
@[simp] theorem spendFree_pPool (s : State) (n : Nat) : (s.spendFree n).pPool = s.pPool := rfl
@[simp] theorem spendFree_aPool (s : State) (n : Nat) : (s.spendFree n).aPool = s.aPool := rfl
@[simp] theorem spendFree_pOut (s : State) (n : Nat) : (s.spendFree n).pOut = s.pOut := rfl
@[simp] theorem spendFree_aOut (s : State) (n : Nat) : (s.spendFree n).aOut = s.aOut := rfl
@[simp] theorem spendFree_lastServed (s : State) (n : Nat) : (s.spendFree n).lastServed = s.lastServed := rfl
@[simp] theorem spendFree_tfu (s : State) (n : Nat) : (s.spendFree n).tfu = s.tfu := rfl
@[simp] theorem spendFree_map (s : State) (n : Nat) : (s.spendFree n).map = s.map := rfl
@[simp] theorem spendFree_log (s : State) (n : Nat) : (s.spendFree n).log = s.log := rfl
@[simp] theorem spendFree_link (s : State) (n : Nat) : (s.spendFree n).link = s.link := rfl
@[simp] theorem spendFree_mgmt (s : State) (n : Nat) : (s.spendFree n).mgmt = s.mgmt := rfl
@[simp] theorem spendFree_ntc (s : State) (n : Nat) : (s.spendFree n).ntc = s.ntc := rfl

/-! ### latchNotice -/

@[simp] theorem latchNotice_pending (s : State) : s.latchNotice.pending = s.pending := rfl
@[simp] theorem latchNotice_device (s : State) : s.latchNotice.device = s.device := rfl
@[simp] theorem latchNotice_startResult (s : State) : s.latchNotice.startResult = s.startResult := rfl
@[simp] theorem latchNotice_root (s : State) : s.latchNotice.root = s.root := rfl
@[simp] theorem latchNotice_resetHeld (s : State) : s.latchNotice.resetHeld = s.resetHeld := rfl
@[simp] theorem latchNotice_timer (s : State) : s.latchNotice.timer = s.timer := rfl
@[simp] theorem latchNotice_intake (s : State) : s.latchNotice.intake = s.intake := rfl
@[simp] theorem latchNotice_presented (s : State) : s.latchNotice.presented = s.presented := rfl
@[simp] theorem latchNotice_completions (s : State) : s.latchNotice.completions = s.completions := rfl
@[simp] theorem latchNotice_sent (s : State) : s.latchNotice.sent = s.sent := rfl
@[simp] theorem latchNotice_pointer (s : State) : s.latchNotice.pointer = s.pointer := rfl
@[simp] theorem latchNotice_outstanding (s : State) : s.latchNotice.outstanding = s.outstanding := rfl
@[simp] theorem latchNotice_slots (s : State) : s.latchNotice.slots = s.slots := rfl
@[simp] theorem latchNotice_cache (s : State) : s.latchNotice.cache = s.cache := rfl
@[simp] theorem latchNotice_tracker (s : State) : s.latchNotice.tracker = s.tracker := rfl
@[simp] theorem latchNotice_pPool (s : State) : s.latchNotice.pPool = s.pPool := rfl
@[simp] theorem latchNotice_aPool (s : State) : s.latchNotice.aPool = s.aPool := rfl
@[simp] theorem latchNotice_pOut (s : State) : s.latchNotice.pOut = s.pOut := rfl
@[simp] theorem latchNotice_aOut (s : State) : s.latchNotice.aOut = s.aOut := rfl
@[simp] theorem latchNotice_lastServed (s : State) : s.latchNotice.lastServed = s.lastServed := rfl
@[simp] theorem latchNotice_tfu (s : State) : s.latchNotice.tfu = s.tfu := rfl
@[simp] theorem latchNotice_map (s : State) : s.latchNotice.map = s.map := rfl
@[simp] theorem latchNotice_log (s : State) : s.latchNotice.log = s.log := rfl
@[simp] theorem latchNotice_link (s : State) : s.latchNotice.link = s.link := rfl
@[simp] theorem latchNotice_mgmt (s : State) : s.latchNotice.mgmt = s.mgmt := rfl
@[simp] theorem latchNotice_freeCount (s : State) : s.latchNotice.freeCount = s.freeCount := rfl

/-! ### setPool -/

@[simp] theorem setPool_pending (s : State) (p : MemPort) (q : IdPool) : (s.setPool p q).pending = s.pending := by cases p <;> rfl
@[simp] theorem setPool_device (s : State) (p : MemPort) (q : IdPool) : (s.setPool p q).device = s.device := by cases p <;> rfl
@[simp] theorem setPool_startResult (s : State) (p : MemPort) (q : IdPool) : (s.setPool p q).startResult = s.startResult := by cases p <;> rfl
@[simp] theorem setPool_root (s : State) (p : MemPort) (q : IdPool) : (s.setPool p q).root = s.root := by cases p <;> rfl
@[simp] theorem setPool_resetHeld (s : State) (p : MemPort) (q : IdPool) : (s.setPool p q).resetHeld = s.resetHeld := by cases p <;> rfl
@[simp] theorem setPool_timer (s : State) (p : MemPort) (q : IdPool) : (s.setPool p q).timer = s.timer := by cases p <;> rfl
@[simp] theorem setPool_intake (s : State) (p : MemPort) (q : IdPool) : (s.setPool p q).intake = s.intake := by cases p <;> rfl
@[simp] theorem setPool_presented (s : State) (p : MemPort) (q : IdPool) : (s.setPool p q).presented = s.presented := by cases p <;> rfl
@[simp] theorem setPool_completions (s : State) (p : MemPort) (q : IdPool) : (s.setPool p q).completions = s.completions := by cases p <;> rfl
@[simp] theorem setPool_sent (s : State) (p : MemPort) (q : IdPool) : (s.setPool p q).sent = s.sent := by cases p <;> rfl
@[simp] theorem setPool_pointer (s : State) (p : MemPort) (q : IdPool) : (s.setPool p q).pointer = s.pointer := by cases p <;> rfl
@[simp] theorem setPool_outstanding (s : State) (p : MemPort) (q : IdPool) : (s.setPool p q).outstanding = s.outstanding := by cases p <;> rfl
@[simp] theorem setPool_slots (s : State) (p : MemPort) (q : IdPool) : (s.setPool p q).slots = s.slots := by cases p <;> rfl
@[simp] theorem setPool_cache (s : State) (p : MemPort) (q : IdPool) : (s.setPool p q).cache = s.cache := by cases p <;> rfl
@[simp] theorem setPool_tracker (s : State) (p : MemPort) (q : IdPool) : (s.setPool p q).tracker = s.tracker := by cases p <;> rfl
@[simp] theorem setPool_pOut (s : State) (p : MemPort) (q : IdPool) : (s.setPool p q).pOut = s.pOut := by cases p <;> rfl
@[simp] theorem setPool_aOut (s : State) (p : MemPort) (q : IdPool) : (s.setPool p q).aOut = s.aOut := by cases p <;> rfl
@[simp] theorem setPool_lastServed (s : State) (p : MemPort) (q : IdPool) : (s.setPool p q).lastServed = s.lastServed := by cases p <;> rfl
@[simp] theorem setPool_tfu (s : State) (p : MemPort) (q : IdPool) : (s.setPool p q).tfu = s.tfu := by cases p <;> rfl
@[simp] theorem setPool_map (s : State) (p : MemPort) (q : IdPool) : (s.setPool p q).map = s.map := by cases p <;> rfl
@[simp] theorem setPool_log (s : State) (p : MemPort) (q : IdPool) : (s.setPool p q).log = s.log := by cases p <;> rfl
@[simp] theorem setPool_link (s : State) (p : MemPort) (q : IdPool) : (s.setPool p q).link = s.link := by cases p <;> rfl
@[simp] theorem setPool_mgmt (s : State) (p : MemPort) (q : IdPool) : (s.setPool p q).mgmt = s.mgmt := by cases p <;> rfl
@[simp] theorem setPool_ntc (s : State) (p : MemPort) (q : IdPool) : (s.setPool p q).ntc = s.ntc := by cases p <;> rfl
@[simp] theorem setPool_freeCount (s : State) (p : MemPort) (q : IdPool) : (s.setPool p q).freeCount = s.freeCount := by cases p <;> rfl

/-! ### drive -/

@[simp] theorem drive_pending (s : State) (p : MemPort) (x : Issue) : (s.drive p x).pending = s.pending := by cases p <;> rfl
@[simp] theorem drive_device (s : State) (p : MemPort) (x : Issue) : (s.drive p x).device = s.device := by cases p <;> rfl
@[simp] theorem drive_startResult (s : State) (p : MemPort) (x : Issue) : (s.drive p x).startResult = s.startResult := by cases p <;> rfl
@[simp] theorem drive_root (s : State) (p : MemPort) (x : Issue) : (s.drive p x).root = s.root := by cases p <;> rfl
@[simp] theorem drive_resetHeld (s : State) (p : MemPort) (x : Issue) : (s.drive p x).resetHeld = s.resetHeld := by cases p <;> rfl
@[simp] theorem drive_timer (s : State) (p : MemPort) (x : Issue) : (s.drive p x).timer = s.timer := by cases p <;> rfl
@[simp] theorem drive_intake (s : State) (p : MemPort) (x : Issue) : (s.drive p x).intake = s.intake := by cases p <;> rfl
@[simp] theorem drive_presented (s : State) (p : MemPort) (x : Issue) : (s.drive p x).presented = s.presented := by cases p <;> rfl
@[simp] theorem drive_completions (s : State) (p : MemPort) (x : Issue) : (s.drive p x).completions = s.completions := by cases p <;> rfl
@[simp] theorem drive_sent (s : State) (p : MemPort) (x : Issue) : (s.drive p x).sent = s.sent := by cases p <;> rfl
@[simp] theorem drive_pointer (s : State) (p : MemPort) (x : Issue) : (s.drive p x).pointer = s.pointer := by cases p <;> rfl
@[simp] theorem drive_outstanding (s : State) (p : MemPort) (x : Issue) : (s.drive p x).outstanding = s.outstanding := by cases p <;> rfl
@[simp] theorem drive_slots (s : State) (p : MemPort) (x : Issue) : (s.drive p x).slots = s.slots := by cases p <;> rfl
@[simp] theorem drive_cache (s : State) (p : MemPort) (x : Issue) : (s.drive p x).cache = s.cache := by cases p <;> rfl
@[simp] theorem drive_tracker (s : State) (p : MemPort) (x : Issue) : (s.drive p x).tracker = s.tracker := by cases p <;> rfl
@[simp] theorem drive_pPool (s : State) (p : MemPort) (x : Issue) : (s.drive p x).pPool = s.pPool := by cases p <;> rfl
@[simp] theorem drive_aPool (s : State) (p : MemPort) (x : Issue) : (s.drive p x).aPool = s.aPool := by cases p <;> rfl
@[simp] theorem drive_lastServed (s : State) (p : MemPort) (x : Issue) : (s.drive p x).lastServed = s.lastServed := by cases p <;> rfl
@[simp] theorem drive_tfu (s : State) (p : MemPort) (x : Issue) : (s.drive p x).tfu = s.tfu := by cases p <;> rfl
@[simp] theorem drive_map (s : State) (p : MemPort) (x : Issue) : (s.drive p x).map = s.map := by cases p <;> rfl
@[simp] theorem drive_log (s : State) (p : MemPort) (x : Issue) : (s.drive p x).log = s.log := by cases p <;> rfl
@[simp] theorem drive_link (s : State) (p : MemPort) (x : Issue) : (s.drive p x).link = s.link := by cases p <;> rfl
@[simp] theorem drive_mgmt (s : State) (p : MemPort) (x : Issue) : (s.drive p x).mgmt = s.mgmt := by cases p <;> rfl
@[simp] theorem drive_ntc (s : State) (p : MemPort) (x : Issue) : (s.drive p x).ntc = s.ntc := by cases p <;> rfl
@[simp] theorem drive_freeCount (s : State) (p : MemPort) (x : Issue) : (s.drive p x).freeCount = s.freeCount := by cases p <;> rfl

/-! ### The fields an update writes -/

@[simp] theorem logFault_log (s : State) (f : FaultRecord) : (s.logFault f).log = s.log.join f := rfl

@[simp] theorem form_completions (s : State) (c : Completion) :
    (s.form c).completions = s.completions ++ [c] := rfl

@[simp] theorem queueTable_tfu (s : State) (o : TableOp) :
    (s.queueTable o).tfu = { s.tfu with queue := s.tfu.queue ++ [o] } := rfl

@[simp] theorem spendFree_freeCount (s : State) (n : Nat) :
    (s.spendFree n).freeCount = s.freeCount + n := rfl

@[simp] theorem latchNotice_ntc (s : State) : s.latchNotice.ntc = s.noticeLine := rfl

@[simp] theorem setSticky_mgmt (s : State) (b : BitVec 3) :
    (s.setSticky b).mgmt = { s.mgmt with sticky := s.mgmt.sticky ||| b } := rfl

@[simp] theorem endForce_mgmt (s : State) (i : Slot) (c : ResultCode) :
    (s.endForce i c).mgmt = { s.mgmt with sticky := s.mgmt.sticky ||| forceDoneBit } := rfl

@[simp] theorem unreserve_map (s : State) (i : Slot) :
    (s.unreserve i).map = s.map.filter fun e => !e.isReserved i := rfl

@[simp] theorem dropEntries_map (s : State) (i : Slot) :
    (s.dropEntries i).map =
      s.map.filter fun e => !(decide (e.slot = i) && decide (e.role ≠ .reserved)) := rfl

/-! ### Slots and queues read after a write -/

@[simp] theorem slot_setSlot (s : State) (i : Slot) (r : SlotRecord) : (s.setSlot i r).slot i = r := by
  simp [slot, setSlot]

theorem slot_setSlot_ne (s : State) {i j : Slot} (r : SlotRecord) (h : j ≠ i) :
    (s.setSlot i r).slot j = s.slot j := by
  have : i.val ≠ j.val := fun e => h (Fin.ext e.symm)
  simp [slot, setSlot, this]

@[simp] theorem slot_setSlotState (s : State) (i : Slot) (st : SlotState) :
    (s.setSlotState i st).slot i = { s.slot i with state := st } := by
  simp [setSlotState]

theorem slot_setSlotState_ne (s : State) {i j : Slot} (st : SlotState) (h : j ≠ i) :
    (s.setSlotState i st).slot j = s.slot j := slot_setSlot_ne s _ h

@[simp] theorem slot_setSwitch (s : State) (i : Slot) (sw : Option SwitchRec) :
    (s.setSwitch i sw).slot i = { s.slot i with switch := sw } := by
  simp [setSwitch]

theorem slot_setSwitch_ne (s : State) {i j : Slot} (sw : Option SwitchRec) (h : j ≠ i) :
    (s.setSwitch i sw).slot j = s.slot j := slot_setSlot_ne s _ h

@[simp] theorem slot_endForce (s : State) (i : Slot) (c : ResultCode) :
    (s.endForce i c).slot i = { s.slot i with lastForce := some c } := by
  simp [endForce, setSticky, slot, setSlot]

theorem slot_endForce_ne (s : State) {i j : Slot} (c : ResultCode) (h : j ≠ i) :
    (s.endForce i c).slot j = s.slot j :=
  (slot_setSlot_ne s _ h : _)

@[simp] theorem queues_setQueues (s : State) (i : Slot) (q : Intake) :
    (s.setQueues i q).queues i = q := by
  simp [queues, setQueues]

theorem queues_setQueues_ne (s : State) {i j : Slot} (q : Intake) (h : j ≠ i) :
    (s.setQueues i q).queues j = s.queues j := by
  have : i.val ≠ j.val := fun e => h (Fin.ext e.symm)
  simp [queues, setQueues, this]

@[simp] theorem setSlot_setSlot (s : State) (i : Slot) (r r' : SlotRecord) :
    (s.setSlot i r).setSlot i r' = s.setSlot i r' := by
  simp [setSlot]

/-- A slot's record written back changes nothing. -/
@[simp] theorem setSlot_slot (s : State) (i : Slot) : s.setSlot i (s.slot i) = s := by
  simp [setSlot, slot]

@[simp] theorem setQueues_setQueues (s : State) (i : Slot) (q q' : Intake) :
    (s.setQueues i q).setQueues i q' = s.setQueues i q' := by
  simp [setQueues]

/-- A slot's queues written back change nothing. -/
@[simp] theorem setQueues_queues (s : State) (i : Slot) : s.setQueues i (s.queues i) = s := by
  simp [setQueues, queues]

/-- Every slot of two states equal makes their slot tables equal. -/
theorem slots_ext {s t : State} (h : ∀ i, s.slot i = t.slot i) : s.slots = t.slots := by
  apply Vector.ext
  intro k hk
  exact h ⟨k, hk⟩

@[simp] theorem slot_setQueues (s : State) (i j : Slot) (q : Intake) :
    (s.setQueues i q).slot j = s.slot j := rfl

@[simp] theorem slot_logFault (s : State) (j : Slot) (f : FaultRecord) :
    (s.logFault f).slot j = s.slot j := rfl

@[simp] theorem slot_form (s : State) (j : Slot) (c : Completion) : (s.form c).slot j = s.slot j := rfl

@[simp] theorem slot_queueTable (s : State) (j : Slot) (o : TableOp) :
    (s.queueTable o).slot j = s.slot j := rfl

@[simp] theorem slot_freeStaged (s : State) (i j : Slot) : (s.freeStaged i).slot j = s.slot j := rfl

@[simp] theorem slot_freeCommitted (s : State) (i j : Slot) :
    (s.freeCommitted i).slot j = s.slot j := rfl

@[simp] theorem slot_commitCache (s : State) (i j : Slot) : (s.commitCache i).slot j = s.slot j := rfl

@[simp] theorem slot_unreserve (s : State) (i j : Slot) : (s.unreserve i).slot j = s.slot j := rfl

@[simp] theorem slot_dropEntries (s : State) (i j : Slot) : (s.dropEntries i).slot j = s.slot j := rfl

@[simp] theorem slot_spendFree (s : State) (j : Slot) (n : Nat) :
    (s.spendFree n).slot j = s.slot j := rfl

@[simp] theorem slot_latchNotice (s : State) (j : Slot) : s.latchNotice.slot j = s.slot j := rfl

@[simp] theorem slot_setPool (s : State) (j : Slot) (p : MemPort) (q : IdPool) :
    (s.setPool p q).slot j = s.slot j := by cases p <;> rfl

@[simp] theorem pool_setPool (s : State) (p : MemPort) (q : IdPool) : (s.setPool p q).pool p = q := by
  cases p <;> rfl

end Sys2Proof.Machine.State
end

