-- ==== Sys2Proof/Laws/Ops.lean ====
section
/-! SUPPORT. What the shared operations do, one lemma each: free orders, lists with one entry picked out, the fault log, byte fields, the window cache and identifiers. -/

namespace Sys2Proof.Machine

/-! ### Free orders -/

theorem insertAt_perm {α : Type} (x : α) (l : List α) (n : Nat) : (insertAt x l n).Perm (x :: l) := by
  induction l generalizing n with
  | nil => exact List.Perm.refl _
  | cons y ys ih =>
    cases n with
    | zero => exact List.Perm.refl _
    | succ k => exact (List.Perm.cons y (ih k)).trans (List.Perm.swap x y ys)

/-- A free order is an order of the same things, each once. -/
theorem freeOrder_perm {α : Type} (n : Nat) (l : List α) : (freeOrder n l).Perm l := by
  induction l with
  | nil => exact List.Perm.refl _
  | cons x xs ih => exact (insertAt_perm x _ _).trans (List.Perm.cons x ih)

@[simp] theorem freeOrder_nil {α : Type} (n : Nat) : freeOrder n ([] : List α) = [] := rfl

@[simp] theorem freeOrder_singleton {α : Type} (n : Nat) (x : α) : freeOrder n [x] = [x] := rfl

theorem mem_freeOrder {α : Type} {n : Nat} {l : List α} {x : α} : x ∈ freeOrder n l ↔ x ∈ l :=
  (freeOrder_perm n l).mem_iff

theorem freeOrder_eq_nil {α : Type} {n : Nat} {l : List α} : freeOrder n l = [] ↔ l = [] := by
  constructor
  · intro h
    have hp := freeOrder_perm n l
    rw [h] at hp
    exact List.nil_perm.mp hp
  · intro h; rw [h]; rfl

/-! ### The first entry of a list that meets a condition -/

theorem updateFirst_split {α : Type} (c : α → Bool) (f : α → α) (before after : List α) (e : α)
    (hb : ∀ x ∈ before, c x = false) (he : c e = true) :
    updateFirst c f (before ++ e :: after) = before ++ f e :: after := by
  induction before with
  | nil => simp [updateFirst, he]
  | cons x xs ih =>
    have hx : c x = false := hb x (List.mem_cons_self ..)
    simp [updateFirst, hx, ih (fun y hy => hb y (List.mem_cons_of_mem _ hy))]

theorem find_split {α : Type} (c : α → Bool) (before after : List α) (e : α)
    (hb : ∀ x ∈ before, c x = false) (he : c e = true) :
    (before ++ e :: after).find? c = some e := by
  rw [List.find?_append, List.find?_eq_none.mpr (by simpa using hb)]
  simp [he]

theorem eraseP_split {α : Type} (c : α → Bool) (before after : List α) (e : α)
    (hb : ∀ x ∈ before, c x = false) (he : c e = true) :
    (before ++ e :: after).eraseP c = before ++ after := by
  rw [List.eraseP_append_right _ (by simpa using hb)]
  simp [he]

theorem updateFirst_length {α : Type} (c : α → Bool) (f : α → α) (l : List α) :
    (updateFirst c f l).length = l.length := by
  induction l with
  | nil => rfl
  | cons x xs ih => by_cases h : c x <;> simp [updateFirst, h, ih]

theorem updateFirst_map {α β : Type} (c : α → Bool) (f : α → α) (g : α → β) (l : List α)
    (h : ∀ x ∈ l, c x = true → g (f x) = g x) : (updateFirst c f l).map g = l.map g := by
  induction l with
  | nil => rfl
  | cons x xs ih =>
    have ih' := ih (fun y hy => h y (List.mem_cons_of_mem _ hy))
    by_cases hx : c x = true
    · simp [updateFirst, hx, h x (List.mem_cons_self ..) hx]
    · simp [updateFirst, hx, ih']

/-! ### The fault log -/

theorem FaultLog.join_of_room {l : FaultLog} (f : FaultRecord) (h : l.records.length < 32) :
    l.join f = { l with records := l.records ++ [f] } := by
  simp [FaultLog.join, Config.logPlaces, h]

theorem FaultLog.join_of_full {l : FaultLog} (f : FaultRecord) (h : 32 ≤ l.records.length) :
    l.join f = { l with overrun := true, dropped := true } := by
  simp [FaultLog.join, Config.logPlaces, Nat.not_lt.mpr h]

/-- A record that is handed to the log keeps it within its places. -/
theorem FaultLog.join_bounded {l : FaultLog} (f : FaultRecord) (h : l.records.length ≤ 32) :
    (l.join f).records.length ≤ 32 := by
  unfold FaultLog.join
  split
  · next hr => simp [Config.logPlaces] at hr ⊢; omega
  · exact h

theorem FaultLog.foldl_join_bounded (fs : List FaultRecord) {l : FaultLog}
    (h : l.records.length ≤ 32) : (fs.foldl FaultLog.join l).records.length ≤ 32 := by
  induction fs generalizing l with
  | nil => exact h
  | cons f fs ih => exact ih (FaultLog.join_bounded f h)

/-! ### Byte fields -/

theorem leNat_lt (l : List Byte) : leNat l < 256 ^ l.length := by
  induction l with
  | nil => simp [leNat]
  | cons b bs ih =>
    have hb : b.toNat < 256 := b.isLt
    simp only [leNat, List.length_cons, Nat.pow_succ]
    omega

theorem field_lt (data : List Byte) (off size : Nat) : field data off size < 256 ^ size := by
  refine lt_of_lt_of_le (leNat_lt _) (Nat.pow_le_pow_right (by norm_num) ?_)
  simp [slice]

theorem leNat_append (a b : List Byte) : leNat (a ++ b) = leNat a + 256 ^ a.length * leNat b := by
  induction a with
  | nil => simp [leNat]
  | cons x xs ih =>
    simp only [List.cons_append, leNat, ih, List.length_cons, Nat.pow_succ]
    ring

/-- A field is its low bytes and, above them, its high bytes. -/
theorem field_add (data : List Byte) (off a b : Nat) (h : off + a ≤ data.length) :
    field data off (a + b) = field data off a + 256 ^ a * field data (off + a) b := by
  unfold field slice
  rw [List.take_add, List.drop_drop, leNat_append]
  congr 2
  simp only [List.length_take, List.length_drop]
  congr 1
  omega

theorem addrField_toNat (data : List Byte) (off : Nat) :
    (addrField data off).toNat = field data off 5 := by
  have h := field_lt data off 5
  simp only [addrField, BitVec.toNat_ofNat]
  exact Nat.mod_eq_of_lt (lt_of_lt_of_eq h (by norm_num))

theorem byteAt_toNat (data : List Byte) (off : Nat) : (byteAt data off).toNat = field data off 1 := by
  have h := field_lt data off 1
  simp only [byteAt, BitVec.toNat_ofNat]
  exact Nat.mod_eq_of_lt (by simpa using h)

theorem tableAddr_of_lt {n : Nat} (h : n < 2 ^ 40) : tableAddr n = BitVec.ofNat 40 n := by
  exact if_pos h

theorem tableAddr_toNat (a : Addr) : tableAddr a.toNat = a := by
  rw [tableAddr_of_lt a.isLt]; simp

/-! ### Fields of a record, a gate entry and a descriptor (12.3) -/

/-- The fields of a header word are the bits of the record's bytes. -/
theorem header_fields {data : List Byte} {l : Loaded} (hd : 8 ≤ data.length)
    (h : l.header = BitVec.ofNat 64 (field data 0 8)) :
    l.fresh = (byteAt data 2).getLsbD 0 ∧ l.keep = (byteAt data 2).getLsbD 1 ∧
      l.ext = (byteAt data 2).getLsbD 2 ∧ l.initialLevel.val = (byteAt data 2).toNat / 16 % 4 ∧
      l.epochBudget = field data 4 3 ∧ l.formatTag.toNat = field data 0 2 := by
  have e1 := field_add data 0 2 6 (by omega)
  have e2 := field_add data 2 1 5 (by omega)
  have e3 := field_add data 3 1 4 (by omega)
  have e4 := field_add data 4 3 1 (by omega)
  have l0 := field_lt data 0 2
  have l2 := field_lt data 2 1
  have l3 := field_lt data 3 1
  have l4 := field_lt data 4 3
  have l7 := field_lt data 7 1
  norm_num at e1 e2 e3 e4 l0 l2 l3 l4 l7
  have hb : ∀ k, k < 8 → (byteAt data 2).getLsbD k = (field data 2 1).testBit k := by
    intro k hk
    unfold byteAt
    rw [BitVec.getLsbD_ofNat]
    simp [hk]
  have hh : ∀ k, k < 64 → l.header.getLsbD k = (field data 0 8).testBit k := by
    intro k hk
    rw [h, BitVec.getLsbD_ofNat]
    simp [hk]
  have ht : ∀ k, k < 8 → (field data 0 8).testBit (16 + k) = (field data 2 1).testBit k := by
    intro k hk
    simp only [Nat.testBit_eq_decide_div_mod_eq]
    congr 1
    rw [eq_iff_iff]
    interval_cases k <;> norm_num <;> omega
  refine ⟨?_, ?_, ?_, ?_, ?_, ?_⟩
  · exact (hh 16 (by omega)).trans ((ht 0 (by omega)).trans (hb 0 (by omega)).symm)
  · exact (hh 17 (by omega)).trans ((ht 1 (by omega)).trans (hb 1 (by omega)).symm)
  · exact (hh 18 (by omega)).trans ((ht 2 (by omega)).trans (hb 2 (by omega)).symm)
  · show (l.header.extractLsb' 20 2).toNat = _
    rw [byteAt_toNat, BitVec.extractLsb'_toNat, h, BitVec.toNat_ofNat, Nat.shiftRight_eq_div_pow]
    omega
  · show (l.header.extractLsb' 32 24).toNat = _
    rw [BitVec.extractLsb'_toNat, h, BitVec.toNat_ofNat, Nat.shiftRight_eq_div_pow]
    omega
  · show (l.header.extractLsb' 0 16).toNat = _
    rw [BitVec.extractLsb'_toNat, h, BitVec.toNat_ofNat, Nat.shiftRight_eq_div_pow]
    omega

/-- A level field of two bits of a byte. -/
theorem levelOf_eq (b : Byte) (k : Nat) {l : Level} (h : l.val = b.toNat / 2 ^ k % 4) :
    levelOf (b.extractLsb' k 2) = l := by
  apply Fin.ext
  rw [h]
  show (b.extractLsb' k 2).toNat = _
  rw [BitVec.extractLsb'_toNat, Nat.shiftRight_eq_div_pow]

/-- A threshold code of three bits of a byte: 0 to 3 name a level, any other is NEVER. -/
theorem thresholdOf_eq (b : Byte) (k : Nat) {code : Nat} (hc : code = b.toNat / 2 ^ k % 8) :
    (∀ m : Level, code = m.val → thresholdOf (b.extractLsb' k 3) = .upTo m) ∧
      (4 ≤ code → thresholdOf (b.extractLsb' k 3) = .never) := by
  have e : (b.extractLsb' k 3).toNat = code := by
    rw [BitVec.extractLsb'_toNat, Nat.shiftRight_eq_div_pow, hc]
  unfold thresholdOf
  rw [e]
  constructor
  · intro m hm
    have := m.isLt
    rw [if_pos (by omega)]
    congr 1
    apply Fin.ext
    show ((b.extractLsb' k 3).extractLsb' 0 2).toNat = _
    rw [BitVec.extractLsb'_toNat, e]
    simp; omega
  · intro h
    rw [if_neg (by omega)]

/-! ### The window cache (R21) -/

theorem lowestFree_none {s : State} (h : ∀ k : Fin 256, s.cache[k] ≠ .free) :
    s.lowestFree = none := by
  unfold State.lowestFree
  rw [List.find?_eq_none]
  intro k _
  simpa using h k

theorem lowestFree_some {s : State} {k : Fin 256} (h : s.cache[k] = .free)
    (hf : ∀ j : Fin 256, j < k → s.cache[j] ≠ .free) : s.lowestFree = some k := by
  unfold State.lowestFree
  rw [List.find?_eq_some_iff_getElem]
  refine ⟨by simpa using h, k.val, by simp, by simp, ?_⟩
  intro j hj
  have := hf ⟨j, by omega⟩ hj
  simpa using this

/-! ### Identifiers -/

@[simp] theorem IdPool.get_put (q : IdPool) (a b : IssueId) (st : IdState) :
    (q.put a st).get b = if a = b then st else q.get b := by
  unfold IdPool.put IdPool.get
  by_cases h : a = b
  · subst h; simp
  · have hne : a.toFin ≠ b.toFin := fun hc => h (BitVec.eq_of_toFin_eq hc)
    have hv : a.toFin.val ≠ b.toFin.val := fun hc => hne (Fin.ext hc)
    simp only [h, if_false]
    exact Vector.getElem_set_ne _ _ hv

theorem IdPool.get_retireAll (q : IdPool) (id : IssueId) :
    q.retireAll.get id = if q.get id = .inUse then .retired else q.get id := by
  unfold IdPool.retireAll IdPool.get
  simp only [Fin.getElem_fin, Vector.getElem_map]

end Sys2Proof.Machine
end

