-- ==== Sys2Proof/Laws/Engine.lean ====
section
/-! SUPPORT. What the switch engine's operations for one slot can do to the state: the rest of the device is untouched, the log keeps its bound and the binding map its soundness. -/

namespace Sys2Proof.Machine

/-! ### The binding map -/

theorem MapSound.of_sublist {s t : State} (h : MapSound s)
    (hs : (t.map.map (·.record)).Sublist (s.map.map (·.record))) : MapSound t := by
  refine ⟨h.1.sublist hs, ?_⟩
  have := hs.length_le
  simp only [List.length_map] at this
  exact this.trans h.2

/-- A list of entries whose roles alone change has the same records. -/
theorem records_map {m : List MapEntry} {f : MapEntry → MapEntry}
    (hf : ∀ e, (f e).record = e.record) : (m.map f).map (·.record) = m.map (·.record) := by
  simp [List.map_map, Function.comp_def, hf]

theorem activate_record (i : Slot) (e : MapEntry) : (MapEntry.activate i e).record = e.record := by
  unfold MapEntry.activate; split <;> rfl

theorem stackAt_record (i : Slot) (d : Nat) (e : MapEntry) :
    (MapEntry.stackAt i d e).record = e.record := by
  unfold MapEntry.stackAt; split <;> rfl

theorem unstack_record (i : Slot) (d : Nat) (e : MapEntry) :
    (MapEntry.unstack i d e).record = e.record := by
  unfold MapEntry.unstack; split <;> rfl

/-- A commit adds no record to the map (R115). -/
theorem mapAfter_sublist (m : List MapEntry) (i : Slot) (sw : SwitchRec) (d : Nat) :
    ((mapAfter m i sw d).map (·.record)).Sublist (m.map (·.record)) := by
  unfold mapAfter
  split
  · split
    · rw [records_map (activate_record i)]
      exact List.filter_sublist.map _
    · rw [records_map (activate_record i), records_map (stackAt_record i _)]
  · rw [records_map (unstack_record i _)]
    exact List.filter_sublist.map _
  · rw [records_map (activate_record i)]
  · rw [records_map (activate_record i)]
  · exact List.Sublist.refl _
  · exact List.Sublist.refl _

/-! ### The window cache -/

theorem stagedCount_eq (s : State) (i : Slot) :
    s.stagedCount i = s.cache.toList.countP (·.isStaged i) := by
  unfold State.stagedCount
  rw [List.countP_eq_length_filter]

theorem committedCount_eq (s : State) (i : Slot) :
    s.committedCount i = s.cache.toList.countP (·.isCommitted i) := by
  unfold State.committedCount
  rw [List.countP_eq_length_filter]

/-- The entries of a cache that satisfy a condition, each entry changed. -/
theorem countP_cache_map (c : Vector CacheEntry 256) (f : CacheEntry → CacheEntry)
    (p : CacheEntry → Bool) : (c.map f).toList.countP p = c.toList.countP fun e => p (f e) := by
  rw [Vector.toList_map, List.countP_map]
  rfl

/-! The entries of another slot keep their lists when slot `i`'s are released or committed. -/

theorem freeStaged_entry {i j : Slot} (hj : j ≠ i) (e : CacheEntry) :
    (if e.isStaged i then CacheEntry.free else e).isStaged j = e.isStaged j ∧
      (if e.isStaged i then CacheEntry.free else e).isCommitted j = e.isCommitted j := by
  cases e with
  | free => exact ⟨rfl, rfl⟩
  | staged k p w => by_cases hk : k = i <;>
      simp [hk, CacheEntry.isStaged, CacheEntry.isCommitted, Ne.symm hj]
  | committed k p w => exact ⟨rfl, rfl⟩

theorem freeCommitted_entry {i j : Slot} (hj : j ≠ i) (e : CacheEntry) :
    (if e.isCommitted i then CacheEntry.free else e).isStaged j = e.isStaged j ∧
      (if e.isCommitted i then CacheEntry.free else e).isCommitted j = e.isCommitted j := by
  cases e with
  | free => exact ⟨rfl, rfl⟩
  | staged k p w => exact ⟨rfl, rfl⟩
  | committed k p w => by_cases hk : k = i <;>
      simp [hk, CacheEntry.isStaged, CacheEntry.isCommitted, Ne.symm hj]

theorem commit_entry {i j : Slot} (hj : j ≠ i) (e : CacheEntry) :
    (if e.isCommitted i then CacheEntry.free else e.toCommitted i).isStaged j = e.isStaged j ∧
      (if e.isCommitted i then CacheEntry.free else e.toCommitted i).isCommitted j =
        e.isCommitted j := by
  cases e with
  | free => exact ⟨rfl, rfl⟩
  | staged k p w => by_cases hk : k = i <;>
      simp [hk, CacheEntry.isStaged, CacheEntry.isCommitted, CacheEntry.toCommitted, Ne.symm hj]
  | committed k p w => by_cases hk : k = i <;>
      simp [hk, CacheEntry.isStaged, CacheEntry.isCommitted, CacheEntry.toCommitted, Ne.symm hj]

/-- A change of each entry that keeps the other slots' entries theirs. -/
theorem otherLists_map (s : State) {i : Slot} {f : CacheEntry → CacheEntry}
    (h : ∀ j, j ≠ i → ∀ e, (f e).isStaged j = e.isStaged j ∧ (f e).isCommitted j = e.isCommitted j)
    (j : Slot) (hj : j ≠ i) :
    State.stagedCount { s with cache := s.cache.map f } j = s.stagedCount j ∧
      State.committedCount { s with cache := s.cache.map f } j = s.committedCount j := by
  simp only [stagedCount_eq, committedCount_eq, countP_cache_map, (h j hj _).1, (h j hj _).2, and_self]

/-- The lists after a descriptor is staged in the lowest FREE entry (R21): the slot's staged list is one
longer. -/
theorem stage_lists {s : State} {i : Slot} {w : Window} {k : Fin 256} (h : s.lowestFree = some k)
    (j : Slot) :
    State.stagedCount
        { s with cache := s.cache.set k (.staged i (s.stagedCount i) w) } j =
      s.stagedCount j + (if j = i then 1 else 0) ∧
    State.committedCount
        { s with cache := s.cache.set k (.staged i (s.stagedCount i) w) } j = s.committedCount j := by
  have hfree : s.cache[k.val] = .free := by simpa using List.find?_some h
  have hlt : k.val < s.cache.toList.length := by simp
  simp only [stagedCount_eq, committedCount_eq, Vector.toList_set, List.countP_set hlt,
    Vector.getElem_toList, hfree, CacheEntry.isStaged, CacheEntry.isCommitted]
  by_cases hj : j = i
  · simp [hj]
  · simp [hj, Ne.symm hj]

/-! ### The frame of a slot's switch -/

/-- What an operation of the switch engine for slot `i` leaves alone, and the little it may add. -/
structure EngineFrame (i : Slot) (s t : State) : Prop where
  pending : t.pending = s.pending
  device : t.device = s.device
  startResult : t.startResult = s.startResult
  root : t.root = s.root
  resetHeld : t.resetHeld = s.resetHeld
  timer : t.timer = s.timer
  presented : t.presented = s.presented
  sent : t.sent = s.sent
  pointer : t.pointer = s.pointer
  outstanding : t.outstanding = s.outstanding
  tracker : t.tracker = s.tracker
  pPool : t.pPool = s.pPool
  aPool : t.aPool = s.aPool
  pOut : t.pOut = s.pOut
  aOut : t.aOut = s.aOut
  lastServed : t.lastServed = s.lastServed
  inFlight : t.tfu.inFlight = s.tfu.inFlight
  link : t.link = s.link
  ntc : t.ntc = s.ntc
  freeCount : t.freeCount = s.freeCount
  registers : ∃ b, t.mgmt = { s.mgmt with sticky := b }
  otherSlots : ∀ j, j ≠ i → t.slot j = s.slot j
  otherQueues : ∀ j, j ≠ i → t.queues j = s.queues j
  ownQueues : t.queues i = s.queues i ∨ t.queues i = Intake.empty
  completions : ∃ cs, t.completions = s.completions ++ cs
  tableOps : ∃ ops, t.tfu.queue = s.tfu.queue ++ ops ∧ ∀ o ∈ ops, o.owner = some i
  otherLists : ∀ j, j ≠ i → t.stagedCount j = s.stagedCount j ∧
    t.committedCount j = s.committedCount j
  log : LogBounded s → LogBounded t
  map : MapSound s → MapSound t

namespace EngineFrame

theorem refl (i : Slot) (s : State) : EngineFrame i s s where
  pending := rfl
  device := rfl
  startResult := rfl
  root := rfl
  resetHeld := rfl
  timer := rfl
  presented := rfl
  sent := rfl
  pointer := rfl
  outstanding := rfl
  tracker := rfl
  pPool := rfl
  aPool := rfl
  pOut := rfl
  aOut := rfl
  lastServed := rfl
  inFlight := rfl
  link := rfl
  ntc := rfl
  freeCount := rfl
  registers := ⟨_, rfl⟩
  otherSlots := fun _ _ => rfl
  otherQueues := fun _ _ => rfl
  ownQueues := Or.inl rfl
  completions := ⟨[], by simp⟩
  tableOps := ⟨[], by simp⟩
  otherLists := fun _ _ => ⟨rfl, rfl⟩
  log := id
  map := id

theorem trans {i : Slot} {s t u : State} (a : EngineFrame i s t) (b : EngineFrame i t u) :
    EngineFrame i s u where
  pending := b.pending.trans a.pending
  device := b.device.trans a.device
  startResult := b.startResult.trans a.startResult
  root := b.root.trans a.root
  resetHeld := b.resetHeld.trans a.resetHeld
  timer := b.timer.trans a.timer
  presented := b.presented.trans a.presented
  sent := b.sent.trans a.sent
  pointer := b.pointer.trans a.pointer
  outstanding := b.outstanding.trans a.outstanding
  tracker := b.tracker.trans a.tracker
  pPool := b.pPool.trans a.pPool
  aPool := b.aPool.trans a.aPool
  pOut := b.pOut.trans a.pOut
  aOut := b.aOut.trans a.aOut
  lastServed := b.lastServed.trans a.lastServed
  inFlight := b.inFlight.trans a.inFlight
  link := b.link.trans a.link
  ntc := b.ntc.trans a.ntc
  freeCount := b.freeCount.trans a.freeCount
  registers := by
    obtain ⟨x, hx⟩ := a.registers
    obtain ⟨y, hy⟩ := b.registers
    exact ⟨y, by rw [hy, hx]⟩
  otherSlots := fun j hj => (b.otherSlots j hj).trans (a.otherSlots j hj)
  otherQueues := fun j hj => (b.otherQueues j hj).trans (a.otherQueues j hj)
  ownQueues := by
    rcases b.ownQueues with h | h
    · rw [h]; exact a.ownQueues
    · exact Or.inr h
  completions := by
    obtain ⟨x, hx⟩ := a.completions
    obtain ⟨y, hy⟩ := b.completions
    exact ⟨x ++ y, by rw [hy, hx, List.append_assoc]⟩
  tableOps := by
    obtain ⟨x, hx, hxo⟩ := a.tableOps
    obtain ⟨y, hy, hyo⟩ := b.tableOps
    refine ⟨x ++ y, by rw [hy, hx, List.append_assoc], fun o ho => ?_⟩
    rcases List.mem_append.mp ho with h | h
    · exact hxo o h
    · exact hyo o h
  otherLists := fun j hj => ⟨(b.otherLists j hj).1.trans (a.otherLists j hj).1,
    (b.otherLists j hj).2.trans (a.otherLists j hj).2⟩
  log := b.log ∘ a.log
  map := b.map ∘ a.map

/-- A change of the slot's own record. -/
theorem setSlot (s : State) (i : Slot) (r : SlotRecord) : EngineFrame i s (s.setSlot i r) :=
  { refl i s with
    otherSlots := fun _ hj => State.slot_setSlot_ne s r hj
    otherQueues := fun _ _ => rfl
    ownQueues := Or.inl rfl
    map := id }

theorem setSlotState (s : State) (i : Slot) (st : SlotState) :
    EngineFrame i s (s.setSlotState i st) := setSlot s i _

theorem setSwitch (s : State) (i : Slot) (sw : Option SwitchRec) :
    EngineFrame i s (s.setSwitch i sw) := setSlot s i _

/-- A change of the window cache alone. -/
theorem setCache (s : State) (i : Slot) (c : Vector CacheEntry 256)
    (h : ∀ j, j ≠ i → State.stagedCount { s with cache := c } j = s.stagedCount j ∧
      State.committedCount { s with cache := c } j = s.committedCount j) :
    EngineFrame i s { s with cache := c } :=
  { refl i s with
    otherLists := h
    otherSlots := fun _ _ => rfl
    otherQueues := fun _ _ => rfl
    ownQueues := Or.inl rfl
    map := id }

theorem freeStaged (s : State) (i : Slot) : EngineFrame i s (s.freeStaged i) :=
  setCache s i _ (otherLists_map s fun _ hj e => freeStaged_entry hj e)

theorem freeCommitted (s : State) (i : Slot) : EngineFrame i s (s.freeCommitted i) :=
  setCache s i _ (otherLists_map s fun _ hj e => freeCommitted_entry hj e)

theorem commitCache (s : State) (i : Slot) : EngineFrame i s (s.commitCache i) :=
  setCache s i _ (otherLists_map s fun _ hj e => commit_entry hj e)

/-- A change of the binding map that adds no record. -/
theorem shrinkMap (s : State) (i : Slot) (m : List MapEntry)
    (h : (m.map (·.record)).Sublist (s.map.map (·.record))) : EngineFrame i s { s with map := m } :=
  { refl i s with
    otherSlots := fun _ _ => rfl
    otherQueues := fun _ _ => rfl
    ownQueues := Or.inl rfl
    map := fun hs => hs.of_sublist h }

theorem unreserve (s : State) (i : Slot) : EngineFrame i s (s.unreserve i) :=
  shrinkMap s i _ (List.filter_sublist.map _)

theorem dropEntries (s : State) (i : Slot) : EngineFrame i s (s.dropEntries i) :=
  shrinkMap s i _ (List.filter_sublist.map _)

/-- A claim (R112). -/
theorem claim {s t : State} {a : Addr} {i : Slot} (h : s.claim a i = some t) : EngineFrame i s t := by
  unfold State.claim at h
  split at h
  · exact absurd h (by simp)
  next hin =>
    split at h
    · exact absurd h (by simp)
    next hfull =>
      obtain rfl := Option.some.inj h
      refine { refl i s with
        otherSlots := fun _ _ => rfl
        otherQueues := fun _ _ => rfl
        ownQueues := Or.inl rfl
        map := fun hs => ⟨?_, ?_⟩ }
      · simp only [List.map_append, List.map_cons, List.map_nil]
        refine List.nodup_append'.mpr ⟨hs.1, by simp, ?_⟩
        intro x hx hx'
        rw [List.mem_singleton] at hx'
        subst hx'
        obtain ⟨e, he, rfl⟩ := List.mem_map.mp hx
        exact hin (List.any_eq_true.mpr ⟨e, he, by simp⟩)
      · have := hs.2
        simp only [Config.mapEntries] at hfull
        simp only [List.length_append, List.length_singleton]
        omega

theorem logFault (s : State) (i : Slot) (f : FaultRecord) : EngineFrame i s (s.logFault f) :=
  { refl i s with
    otherSlots := fun _ _ => rfl
    otherQueues := fun _ _ => rfl
    ownQueues := Or.inl rfl
    log := fun h => ⟨FaultLog.join_bounded f h.1, h.2⟩
    map := id }

theorem form (s : State) (i : Slot) (c : Completion) : EngineFrame i s (s.form c) :=
  { refl i s with
    otherSlots := fun _ _ => rfl
    otherQueues := fun _ _ => rfl
    ownQueues := Or.inl rfl
    completions := ⟨[c], rfl⟩
    map := id }

theorem queueTable (s : State) (i : Slot) (o : TableOp) (h : o.owner = some i) :
    EngineFrame i s (s.queueTable o) :=
  { refl i s with
    otherSlots := fun _ _ => rfl
    otherQueues := fun _ _ => rfl
    ownQueues := Or.inl rfl
    tableOps := ⟨[o], rfl, fun x hx => by rw [List.mem_singleton.mp hx]; exact h⟩
    map := id }

theorem setSticky (s : State) (i : Slot) (b : BitVec 3) : EngineFrame i s (s.setSticky b) :=
  { refl i s with
    registers := ⟨_, rfl⟩
    otherSlots := fun _ _ => rfl
    otherQueues := fun _ _ => rfl
    ownQueues := Or.inl rfl
    map := id }

theorem endForce (s : State) (i : Slot) (c : ResultCode) : EngineFrame i s (s.endForce i c) :=
  (setSlot s i _).trans (setSticky _ i _)

/-- The slot's queues emptied. -/
theorem emptyQueues (s : State) (i : Slot) : EngineFrame i s (s.setQueues i Intake.empty) :=
  { refl i s with
    otherSlots := fun _ _ => rfl
    otherQueues := fun _ hj => State.queues_setQueues_ne s _ hj
    ownQueues := Or.inr (State.queues_setQueues s i _)
    map := id }

/-- Operations in a row. -/
theorem foldl {α : Type} {i : Slot} (f : State → α → State) (hf : ∀ s a, EngineFrame i s (f s a))
    (l : List α) (s : State) : EngineFrame i s (l.foldl f s) := by
  induction l generalizing s with
  | nil => exact refl i s
  | cons a l ih => exact (hf s a).trans (ih (f s a))

theorem answerUnboundQueues (s : State) (i : Slot) : EngineFrame i s (s.answerUnboundQueues i) :=
  (foldl answerUnbound (fun s _ => (form s i _).trans (logFault _ i _)) _ s).trans (emptyQueues _ i)

theorem answerDisabledQueues (s : State) (i : Slot) : EngineFrame i s (s.answerDisabledQueues i) :=
  (foldl (fun s r => s.form (answerOf r .unsupported)) (fun s _ => form s i _) _ s).trans
    (emptyQueues _ i)

/-- A descriptor staged (R21). -/
theorem stage {s t : State} {i : Slot} {w : Window} (h : s.stage i w = some t) :
    EngineFrame i s t := by
  unfold State.stage at h
  split at h
  · exact absurd h (by simp)
  next k hk =>
    obtain rfl := Option.some.inj h
    refine setCache s i _ fun j hj => ?_
    have := stage_lists (i := i) (w := w) hk j
    rwa [if_neg hj] at this

end EngineFrame

/-! ### The engine's operations -/

open EngineFrame

theorem completeDisable_frame (s : State) (i : Slot) : EngineFrame i s (completeDisable s i) :=
  (freeCommitted s i).trans ((dropEntries _ i).trans (setSlot _ i _))

theorem comeToRest_frame (s : State) (i : Slot) : EngineFrame i s (comeToRest s i) := by
  unfold comeToRest
  split
  · exact completeDisable_frame s i
  · split
    · split
      · exact (setSlot s i _).trans (endForce _ i _)
      · exact refl i s
      · exact refl i s
    · exact refl i s

theorem reportForce_frame (s : State) (i : Slot) (sw : SwitchRec) :
    EngineFrame i s (reportForce s i sw) := by
  unfold reportForce
  split
  · split
    · exact endForce s i _
    · exact refl i s
  · exact refl i s

theorem leaveSwitch_frame (s : State) (i : Slot) (sw : SwitchRec) :
    EngineFrame i s (leaveSwitch s i sw) :=
  (setSlot s i _).trans ((reportForce_frame _ i sw).trans (comeToRest_frame _ i))

theorem closeResult_frame (s : State) (i : Slot) (sw : SwitchRec) :
    EngineFrame i s (closeResult s i sw) := by
  unfold closeResult
  split
  · exact (setSlotState s i _).trans (queueTable _ i _ rfl)
  · exact leaveSwitch_frame s i sw

theorem close_frame (s : State) (i : Slot) (sw : SwitchRec) : EngineFrame i s (close s i sw) := by
  unfold close
  split
  · exact (setSlotState s i _).trans (queueTable _ i _ rfl)
  · exact closeResult_frame s i sw

theorem failSwitch_frame (s : State) (i : Slot) (c : ResultCode) :
    EngineFrame i s (failSwitch s i c) := by
  unfold failSwitch
  split
  · exact refl i s
  · exact (freeStaged s i).trans ((unreserve _ i).trans ((setSwitch _ i _).trans
      ((logFault _ i _).trans (close_frame _ i _))))

theorem commit_frame (s : State) (i : Slot) (sw : SwitchRec) (l : Loaded) (a : Addr) :
    EngineFrame i s (commit s i sw l a) := by
  unfold commit
  dsimp only
  refine EngineFrame.trans (t := s.commitCache i) (commitCache s i) ?_
  exact (shrinkMap (s.commitCache i) i _ (mapAfter_sublist s.map i sw _)).trans
    ((setSlot _ i _).trans (close_frame _ i _))

theorem beginLoad_frame (s : State) (i : Slot) (sw : SwitchRec) (a : Addr) :
    EngineFrame i s (beginLoad s i sw a) := by
  refine ((setSlotState s i (if sw.kind = .bind then .binding else .loading)).trans
    (setSwitch _ i (some { sw with target := some a }))).trans ?_
  unfold beginLoad
  generalize (s.setSlotState i _).setSwitch i _ = t
  dsimp only
  split
  · exact failSwitch_frame t i _
  · split
    · split
      · exact failSwitch_frame t i _
      next h => exact (claim h).trans (queueTable _ i _ rfl)
    · exact queueTable t i _ rfl

theorem readHeader_frame (s : State) (i : Slot) (sw : SwitchRec) (n : Nat) :
    EngineFrame i s (readHeader s i sw n) :=
  (setSwitch s i _).trans (queueTable _ i _ rfl)

theorem readDescriptor_frame (s : State) (i : Slot) (sw : SwitchRec) (c : ListCursor) :
    EngineFrame i s (readDescriptor s i sw c) := by
  refine (setSwitch s i (some { sw with cursor := some c })).trans ?_
  unfold readDescriptor
  dsimp only
  split
  · exact failSwitch_frame _ i _
  · exact queueTable _ i _ rfl

theorem recordLoaded_frame (s : State) (i : Slot) (sw : SwitchRec) (a : Addr) (data : List Byte) :
    EngineFrame i s (recordLoaded s i sw a data) := by
  unfold recordLoaded
  dsimp only
  split
  · exact failSwitch_frame s i _
  · split
    · exact (setSwitch s i _).trans (queueTable _ i _ rfl)
    · exact readHeader_frame s i _ _

theorem extensionLoaded_frame (s : State) (i : Slot) (sw : SwitchRec) (l : Loaded)
    (data : List Byte) : EngineFrame i s (extensionLoaded s i sw l data) :=
  readHeader_frame s i _ _

theorem headerLoaded_frame (s : State) (i : Slot) (sw : SwitchRec) (l : Loaded) (a : Addr)
    (c : ListCursor) (data : List Byte) : EngineFrame i s (headerLoaded s i sw l a c data) := by
  unfold headerLoaded
  dsimp only
  split
  · exact commit_frame s i sw l a
  · split
    · exact failSwitch_frame s i _
    · exact readDescriptor_frame s i sw _

theorem descriptorLoaded_frame (s : State) (i : Slot) (sw : SwitchRec) (c : ListCursor)
    (data : List Byte) : EngineFrame i s (descriptorLoaded s i sw c data) := by
  unfold descriptorLoaded
  split
  · exact failSwitch_frame s i _
  · split
    · exact failSwitch_frame s i _
    next h =>
      split
      · exact (stage h).trans (readDescriptor_frame _ i sw _)
      · exact (stage h).trans (readHeader_frame _ i sw _)

theorem resolved_frame (s : State) (i : Slot) (sw : SwitchRec) (a : Addr) (l : Level)
    (transfer : Bool) : EngineFrame i s (resolved s i sw a l transfer) := by
  refine (setSwitch s i (some { sw with target := some a, level := some l, transfer := transfer })).trans ?_
  unfold resolved
  dsimp only
  split
  · split
    · exact (setSlotState _ i _).trans (queueTable _ i _ rfl)
    · exact beginLoad_frame _ i _ _
  · exact beginLoad_frame _ i _ _

theorem resolve_frame (s : State) (i : Slot) (sw : SwitchRec) : EngineFrame i s (resolve s i sw) := by
  refine (setSlotState s i .resolving).trans ?_
  unfold resolve
  dsimp only
  split
  · split
    · unfold resolveCall
      split
      · exact failSwitch_frame _ i _
      · exact queueTable _ i _ rfl
    · exact refl i _
  · split
    · exact failSwitch_frame _ i _
    · exact resolved_frame _ i _ _ _ _
  · split
    · exact resolved_frame _ i _ _ _ _
    · exact refl i _
  · exact failSwitch_frame _ i _
  · exact refl i _
  · exact refl i _

theorem directoryLoaded_frame (s : State) (i : Slot) (g : GateRef) (data : List Byte) :
    EngineFrame i s (directoryLoaded s i g data) := by
  unfold directoryLoaded
  dsimp only
  split
  · exact failSwitch_frame s i _
  · exact queueTable _ i _ rfl

theorem gateLoaded_frame (s : State) (i : Slot) (sw : SwitchRec) (data : List Byte) :
    EngineFrame i s (gateLoaded s i sw data) := by
  unfold gateLoaded
  dsimp only
  split
  · exact failSwitch_frame s i _
  · split
    · exact failSwitch_frame s i _
    · split
      · exact failSwitch_frame s i _
      · exact resolved_frame s i sw _ _ _

theorem startBind_frame (s : State) (i : Slot) (sw : SwitchRec) :
    EngineFrame i s (startBind s i sw) := by
  refine (freeCommitted s i).trans ((dropEntries _ i).trans
    ((setSlot _ i { s.slot i with binding := none, stack := [] }).trans ?_))
  unfold startBind
  dsimp only
  split
  · exact failSwitch_frame _ i _
  · exact beginLoad_frame _ i _ _

theorem dropMailbox_frame (s : State) (i : Slot) (sw : SwitchRec) :
    EngineFrame i s (dropMailbox s i sw) :=
  (logFault s i _).trans ((setSlot _ i _).trans (comeToRest_frame _ i))

theorem afterDraining_frame (s : State) (i : Slot) (sw : SwitchRec) :
    EngineFrame i s (afterDraining s i sw) := by
  unfold afterDraining
  split
  · split
    · exact resolve_frame s i sw
    · exact dropMailbox_frame s i sw
    · exact refl i s
    · exact refl i s
  · split <;> first | exact resolve_frame s i sw | exact startBind_frame s i sw | exact refl i s
  · exact (setSlotState s i _).trans (startBind_frame _ i sw)
  · exact refl i s

theorem endDraining_frame (s : State) (i : Slot) : EngineFrame i s (endDraining s i) := by
  unfold endDraining
  split
  · split
    · exact afterDraining_frame s i _
    · exact refl i s
  · exact refl i s

theorem slotOpFailed_frame (s : State) (i : Slot) (sw : SwitchRec) (w : TableWhat) (timedOut : Bool) :
    EngineFrame i s (slotOpFailed s i sw w timedOut) := by
  unfold slotOpFailed
  split
  case h_1 => exact refl i s
  case h_9 => exact (logFault s i _).trans (closeResult_frame _ i sw)
  case h_10 => exact (logFault s i _).trans (leaveSwitch_frame _ i sw)
  all_goals exact failSwitch_frame s i _

theorem slotOpOk_frame (s : State) (i : Slot) (sw : SwitchRec) (w : TableWhat) (data : List Byte) :
    EngineFrame i s (slotOpOk s i sw w data) := by
  unfold slotOpOk
  split
  · exact refl i s
  · split
    · exact directoryLoaded_frame s i _ data
    · exact refl i s
  · exact gateLoaded_frame s i sw data
  · split
    · exact beginLoad_frame s i sw _
    · exact refl i s
  · split
    · exact recordLoaded_frame s i sw _ data
    · exact refl i s
  · split
    · exact extensionLoaded_frame s i sw _ data
    · exact refl i s
  · split
    · exact headerLoaded_frame s i sw _ _ _ data
    · exact refl i s
  · split
    · exact descriptorLoaded_frame s i sw _ data
    · exact refl i s
  · exact closeResult_frame s i sw
  · exact leaveSwitch_frame s i sw

theorem slotOpSettled_frame (s : State) (i : Slot) (w : TableWhat) (res : Option (List Byte))
    (timedOut : Bool) : EngineFrame i s (slotOpSettled s i w res timedOut) := by
  unfold slotOpSettled
  split
  · exact refl i s
  · split
    · split
      · exact slotOpOk_frame s i _ w _
      · exact slotOpFailed_frame s i _ w timedOut
    · exact refl i s

theorem takeForce_frame (s : State) (i : Slot) : EngineFrame i s (takeForce s i) := by
  unfold takeForce
  dsimp only
  split
  · exact refl i s
  · split
    · exact (setSlot s i _).trans (endDraining_frame _ i)
    · exact refl i s

theorem answerIfUnbound_frame (s : State) (i : Slot) (was : Bool) :
    EngineFrame i s (answerIfUnbound s i was) := by
  unfold answerIfUnbound
  split
  · exact answerUnboundQueues s i
  · exact refl i s

theorem conclude_frame (s : State) (i : Slot) : EngineFrame i s (conclude s i) :=
  (takeForce_frame s i).trans (answerIfUnbound_frame _ i _)

end Sys2Proof.Machine
end

