-- ==== Sys2Proof/Laws/Intake.lean ====
section
/-! SUPPORT. The arrival checks and the decodability conditions of the model, each the same as the words of Safety.lean. -/

namespace Sys2Proof.Machine

theorem malformed_iff (r : Request) : malformed r = true ↔ FormFails r := by
  unfold malformed FormFails Config.pageBytes
  rw [Bool.or_eq_true, Bool.or_eq_true, decide_eq_true_iff, decide_eq_true_iff, decide_eq_true_iff,
    or_assoc]

theorem tagInUse_iff (s : State) (r : Request) :
    s.tagInUse r.initiator r.tag = true ↔ TagTaken s r := by
  simp [TagTaken, State.tagInUse, State.queued, Intake.all, or_and_right, exists_or]

theorem guards_iff (s : State) : s.device.guards = true ↔ Guarding s := by
  unfold Guarding
  cases s.device <;> simp [DeviceState.guards]

theorem queueFull_iff (s : State) (r : Request) :
    lanePlaces r.lane ≤ ((s.queues r.initiator).lane r.lane).length ↔ QueueFull s r := by
  unfold QueueFull
  cases r.lane <;> simp [lanePlaces, Intake.lane, Config.regularPlaces, Config.priorityPlaces]

theorem answerOf_eq (r : Request) (st : CompletionStatus) :
    answerOf r st = zeroCompletion r.initiator r.tag r.op r.length st := by
  unfold answerOf zeroCompletion zeroData
  cases r.op <;> rfl

theorem abortOutstanding_eq (o : Outstanding) :
    abortOutstanding o = zeroCompletion o.slot o.tag o.op o.length .aborted := by
  unfold abortOutstanding zeroCompletion zeroData
  cases o.op <;> rfl

theorem refused_eq (s : State) (r : Request) (k : FaultKind) :
    s.refused r k = (s.form (answerOf r .unsupported)).logFault
      (intakeFault r k (s.contextOf r.initiator)) := by
  rw [answerOf_eq]; rfl

/-- What the arrival of a request does (R26): a refusal by the first check that fails, or a place in
its queue. -/
theorem arrive_eq (s : State) (r : Request) :
    arrive s r = match s.refusal r with
      | some k => s.refused r k
      | none => s.setQueues r.initiator ((s.queues r.initiator).push r) := by
  unfold arrive
  split <;> simp [refused_eq, *]

open Classical in
/-- The five checks in their order. -/
theorem refusal_eq (s : State) (r : Request) :
    s.refusal r =
      if FormFails r then some .malformed
      else if TagTaken s r then some .tagReuse
      else if SlotShut s r then some .slotOff
      else if UnboundShut s r then some .unboundSlot
      else if QueueFull s r then some .queueOverrun
      else none := by
  unfold State.refusal UnboundShut SlotShut
  simp only [malformed_iff, tagInUse_iff, guards_iff, queueFull_iff]
  split_ifs <;> rfl

/-! ### Candidates and the choice of a slot -/

theorem candidate_iff (s : State) (i : Slot) (r : Request) :
    s.candidate i = some r ↔ IsCandidate s i r := by
  unfold State.candidate IsCandidate
  cases hp : (s.queues i).priority with
  | cons x xs => simp
  | nil => by_cases hh : (s.slot i).held = true <;> simp [hh]

theorem decodable_iff (s : State) (i : Slot) : s.decodable i = true ↔ IsDecodable s i := by
  unfold State.decodable IsDecodable State.slotDecodes Config.outstandingEntries
  simp only [Bool.and_eq_true, Bool.or_eq_true, decide_eq_true_iff, Option.isSome_iff_exists,
    candidate_iff, and_assoc, ne_eq]

/-- The slot of the next attempt, when one is chosen. -/
theorem nextSlot_of_chosen {s : State} {i : Slot} {r : Request} (h : Chosen s i r) :
    s.nextSlot = some i := by
  obtain ⟨hc, hd, hf⟩ := h
  unfold State.nextSlot roundRobin allSlots
  rw [List.find?_map, Option.map_eq_some_iff]
  refine ⟨i - s.pointer, ?_, by simp⟩
  have hsplit : List.finRange 16 =
      (List.finRange 16).take (i - s.pointer).val ++
        (i - s.pointer) :: (List.finRange 16).drop ((i - s.pointer).val + 1) := by
    conv_lhs => rw [← List.take_append_drop (i - s.pointer).val (List.finRange 16)]
    congr 1
    rw [List.drop_eq_getElem_cons (by simp)]
    simp
  rw [hsplit]
  apply find_split
  · intro x hx
    obtain ⟨n, hn, hxe⟩ := List.mem_iff_getElem.mp hx
    have hlt : x < i - s.pointer := by
      simp only [List.length_take, List.length_finRange, List.getElem_take, List.getElem_finRange]
        at hn hxe
      rw [← hxe, Fin.lt_def]
      simp
      omega
    have := hf x hlt
    rw [← decodable_iff] at this
    simpa using this
  · simp [decodable_iff, hd]

theorem nextSlot_of_none {s : State} (h : ∀ i, ¬IsDecodable s i) : s.nextSlot = none := by
  unfold State.nextSlot
  rw [List.find?_eq_none]
  intro x _
  rw [decodable_iff]
  exact h x

/-- The attempt that DECODE_ATTEMPT makes (R36). -/
theorem decodeStep_of_chosen {s : State} {i : Slot} {r : Request} (h : Chosen s i r) :
    decodeStep s = attempt s i r := by
  unfold decodeStep
  rw [nextSlot_of_chosen h]
  simp only [(candidate_iff s i r).mpr h.candidate]

theorem decodeStep_of_none {s : State} (h : ∀ i, ¬IsDecodable s i) : decodeStep s = s := by
  unfold decodeStep
  rw [nextSlot_of_none h]

end Sys2Proof.Machine
end

