-- ==== Sys2Proof/Laws/Decoding.lean ====
section
/-! SUPPORT. Decode: the checks of a window as propositions, the parts of a decode that finds every granule issuable, and what a taken decode leaves alone. -/

namespace Sys2Proof.Machine

/-! ### Windows (R49 to R54) -/

/-- The window that decides a granule is the one the decode finds. -/
theorem windowOf_of_decidedBy {s : State} {i : Slot} {r : Request} {j : Nat} {w : Window}
    (h : DecidedBy s i r j w) : s.windowOf i r j = some w := by
  obtain ⟨_, _, he, hc, hf⟩ := h
  unfold State.windowOf decidingWindow
  rw [he]
  exact find_split _ _ _ _ hf hc

theorem windowOf_eq_none {s : State} {i : Slot} {r : Request} {j : Nat}
    (h : ∀ w ∈ s.committedList i, w.covers (granuleStart r.addr j) = false) :
    s.windowOf i r j = none := by
  unfold State.windowOf decidingWindow
  rw [List.find?_eq_none]
  simpa using h

theorem laneFails_iff (w : Window) (r : Request) : w.laneFails r.lane = true ↔ ¬LaneOk w r := by
  unfold Window.laneFails LaneOk
  cases r.lane <;> simp [imp_iff_not_or]

theorem permits_iff (w : Window) (r : Request) (l : Level) :
    (w.threshold r.op).permits l = true ↔ LevelOk w r l := by
  unfold Window.threshold LevelOk
  cases r.op <;> simp
  · cases w.readThr <;> simp [Threshold.permits]
  · cases w.writeThr <;> simp [Threshold.permits]

theorem guarded_iff (root : Option RootCopy) (b : Binding) (r : Request) (t : Addr) :
    guarded root b r.op t = true ↔ GuardStops root b r t := by
  unfold guarded GuardStops inRegion InRegion Config.pageBytes
  cases root <;> simp [and_assoc]

/-- A window on a memory port judges by the checks of R50 after the first. -/
theorem judgeWindow_eq {w : Window} {p : MemPort} (h : w.port.memory = some p)
    (root : Option RootCopy) (b : Binding) (r : Request) (a : Nat) :
    judgeWindow root b w r a = judgeOnPort root b w r p (w.translate a) := by
  unfold judgeWindow
  revert h
  cases w.port <;> simp [WindowPort.memory] <;> rintro rfl <;> rfl

/-- A granule that its window passes is issuable at its target (R50). -/
theorem judgeWindow_of_passes {w : Window} {p : MemPort} (h : w.port.memory = some p)
    {root : Option RootCopy} {b : Binding} {r : Request} {a : Nat} (hl : LaneOk w r)
    (ht : LevelOk w r b.level) (hg : ¬GuardStops root b r (w.translate a)) :
    judgeWindow root b w r a = .issuable (w.translate a) p := by
  rw [judgeWindow_eq h]
  unfold judgeOnPort
  rw [if_neg (by rw [laneFails_iff]; exact not_not.mpr hl),
    if_neg (by rw [(permits_iff w r b.level).mpr ht]; simp),
    if_neg (by rw [guarded_iff]; exact hg)]

/-! ### The budget check (R90, R91) -/

theorem budgetApplies_iff (s : State) (r : Request) (b : Binding) :
    s.budgetApplies r b = true ↔ BudgetChecked s r b := by
  unfold State.budgetApplies BudgetChecked State.epochsOn State.epochLength
  cases s.root <;> simp [and_assoc]

theorem holds_of_checked {s : State} {i : Slot} {r : Request} {js : List Judged} {b : Binding}
    (hb : (s.slot i).binding = some b) (hc : BudgetChecked s r b)
    (hlt : b.remaining < budgetCount r js) (hne : b.remaining ≠ b.epochBudget) :
    s.holds i r js = true := by
  have hd : s.device ≠ .direct := by rw [hc.1]; simp
  unfold State.holds State.decodeBinding
  simp [hd, hb, (budgetApplies_iff s r b).mpr hc, Binding.admits, hne, hlt]

theorem not_holds_of_admits {s : State} {i : Slot} {r : Request} {js : List Judged}
    (h : ∀ b, (s.slot i).binding = some b → s.device = .running →
      BudgetAdmits s r b (budgetCount r js)) : s.holds i r js = false := by
  unfold State.holds State.decodeBinding
  by_cases hd : s.device = .direct
  · simp [hd]
  · simp only [hd, if_false]
    cases hb : (s.slot i).binding with
    | none => rfl
    | some b =>
      cases ha : s.budgetApplies r b with
      | false => simp [ha]
      | true =>
        have hc := (budgetApplies_iff s r b).mp ha
        rcases h b hb hc.1 hc with h1 | h1 <;> simp [ha, Binding.admits, h1]

/-! ### A decode that finds every granule issuable -/

/-- Every granule judged issuable on a port, at the target of its number. -/
def allIssuable (n : Nat) (p : MemPort) (target : Nat → Addr) (exempt : Bool) : List Judged :=
  (List.range n).map fun j => { outcome := .issuable (target j) p, exempt := exempt }

theorem issuableCount_le (js : List Judged) : issuableCount js ≤ js.length := by
  unfold issuableCount
  split
  · exact List.length_filter_le _ _
  · exact Nat.zero_le _

theorem issuableCount_allIssuable (n : Nat) (p : MemPort) (target : Nat → Addr) (x : Bool) :
    issuableCount (allIssuable n p target x) = n := by
  unfold issuableCount allIssuable
  cases n with
  | zero => simp [headIssuable]
  | succ n => simp [List.range_succ_eq_map, headIssuable, GranuleOutcome.isIssuable,
      List.filter_map, Function.comp_def]

theorem budgetCount_allIssuable (r : Request) (n : Nat) (p : MemPort) (target : Nat → Addr)
    (x : Bool) : budgetCount r (allIssuable n p target x) =
      if r.lane = .priority ∨ x = true then 0 else n := by
  unfold budgetCount allIssuable
  cases r.lane with
  | priority => simp
  | regular =>
    cases n with
    | zero => simp [headIssuable]
    | succ n => cases x <;> simp [List.range_succ_eq_map, headIssuable,
        GranuleOutcome.isIssuable, List.filter_map, Function.comp_def]

theorem lowestFailing_allIssuable (n k : Nat) (p : MemPort) (target : Nat → Addr) (x : Bool) :
    lowestFailing (allIssuable n p target x) k = none := by
  unfold allIssuable
  generalize List.range n = l
  induction l generalizing k with
  | nil => rfl
  | cons a l ih => simpa [lowestFailing] using ih (k + 1)

theorem denies_allIssuable (n : Nat) (p : MemPort) (target : Nat → Addr) (x : Bool) :
    (allIssuable n p target x).any (fun j => j.outcome.denies) = false := by
  simp [allIssuable, GranuleOutcome.denies]

/-- The granule work of a decode that finds every granule issuable (R56). -/
theorem allWork_allIssuable (i : Slot) (r : Request) (watched : Bool) (n : Nat) (p : MemPort)
    (target : Nat → Addr) (x : Bool) :
    allWork i r watched (allIssuable n p target x) =
      (List.range n).map fun j => workOf i r j p (target j) watched := by
  have key : ∀ n k : Nat,
      (((List.range' k n).map fun j =>
          ({ outcome := .issuable (target j) p, exempt := x } : Judged)).zipIdx k).filterMap
        (fun (j, n) => granuleWork i r watched j n) =
        (List.range' k n).map fun j => workOf i r j p (target j) watched := by
    intro n
    induction n with
    | zero => intro _; rfl
    | succ n ih =>
      intro k
      rw [List.range'_succ, List.map_cons, List.zipIdx_cons, List.map_cons]
      exact congrArg (workOf i r k p (target k) watched :: ·) (ih (k + 1))
  unfold allWork allIssuable
  rw [List.range_eq_range']
  exact key n 0

/-- The outstanding entry of a decode that finds every granule issuable (R41). -/
theorem outstandingOf_allIssuable (s : State) (i : Slot) (r : Request) (p : MemPort)
    (target : Nat → Addr) (x : Bool) :
    outstandingOf s i r (allIssuable (granuleCount r.addr r.length) p target x) =
      entryOf i r p target (s.presetData i r) := by
  simp [outstandingOf, entryOf, allIssuable, Function.comp_def]

/-- A decode that finds every granule issuable puts its entry and its work in place (R41, R56). -/
theorem placeDecode_allIssuable (s : State) (i : Slot) (r : Request) (watched : Bool) (p : MemPort)
    (target : Nat → Addr) (x : Bool) :
    placeDecode s i r watched (allIssuable (granuleCount r.addr r.length) p target x) =
      { s with
        outstanding := s.outstanding ++ [entryOf i r p target (s.presetData i r)]
        tracker := s.tracker ++ (List.range (granuleCount r.addr r.length)).map fun j =>
          workOf i r j p (target j) watched
        freeCount := s.freeCount + r.length } := by
  have hm : placeDecode s i r watched (allIssuable (granuleCount r.addr r.length) p target x) =
      { s with
        outstanding := s.outstanding ++
          [outstandingOf s i r (allIssuable (granuleCount r.addr r.length) p target x)]
        tracker := s.tracker ++
          allWork i r watched (allIssuable (granuleCount r.addr r.length) p target x)
        freeCount := s.freeCount + r.length } := by
    unfold placeDecode
    cases granuleCount r.addr r.length with
    | zero => rfl
    | succ n => simp only [allIssuable, List.range_succ_eq_map, List.map_cons]; rfl
  rw [hm, outstandingOf_allIssuable, allWork_allIssuable]

/-! ### Attempts by their outcome (R39) -/

theorem attempt_of_taken {s : State} {i : Slot} {r : Request} {js : List Judged}
    (hj : decodeRequest s i r = js) (hh : s.holds i r js = false)
    (ht : issuableCount js ≤ 128 - s.tracker.length) :
    attempt s i r = { takeDecode s i r js with pointer := i + 1 } := by
  have : ¬s.trackerFree < issuableCount js := Nat.not_lt.mpr ht
  unfold attempt attemptOutcome
  simp only [hj, hh, this, if_false, Bool.false_eq_true]

theorem attempt_of_held {s : State} {i : Slot} {r : Request}
    (hh : s.holds i r (decodeRequest s i r) = true) :
    attempt s i r = { s.setSlot i { s.slot i with held := true } with pointer := i + 1 } := by
  unfold attempt attemptOutcome
  simp only [hh, if_true]

theorem attempt_of_notTaken {s : State} {i : Slot} {r : Request}
    (hh : s.holds i r (decodeRequest s i r) = false)
    (ht : 128 - s.tracker.length < issuableCount (decodeRequest s i r)) :
    attempt s i r = { s with pointer := i + 1 } := by
  have : s.trackerFree < issuableCount (decodeRequest s i r) := ht
  unfold attempt attemptOutcome
  simp only [hh, this, if_true, if_false, Bool.false_eq_true]

/-- A decode charges the binding it reads (R62, R91). -/
theorem chargeBinding_of_some {s : State} {i : Slot} {r : Request} {js : List Judged} {b : Binding}
    (h : s.decodeBinding i = some b) : chargeBinding s i r js =
      s.setSlot i { s.slot i with binding := some (s.spentBinding r js b) } := by
  unfold chargeBinding
  rw [h]

theorem chargeBinding_of_none {s : State} {i : Slot} {r : Request} {js : List Judged}
    (h : s.decodeBinding i = none) : chargeBinding s i r js = s := by
  unfold chargeBinding
  rw [h]

theorem decodeBinding_of_bound {s : State} {i : Slot} {b : Binding} (hd : s.device ≠ .direct)
    (hb : (s.slot i).binding = some b) : s.decodeBinding i = some b := by
  unfold State.decodeBinding
  rw [if_neg hd, hb]

/-- The binding after a taken decode that denies nothing. -/
theorem spentBinding_of_noDenial {s t : State} {r : Request} {js : List Judged} {b : Binding} {n : Nat}
    (hd : t.device = s.device) (hr : t.root = s.root)
    (hj : js.any (fun j => j.outcome.denies) = false)
    (hn : BudgetChecked s r b → budgetCount r js = n) :
    t.spentBinding r js b = b.afterTaken s r n := by
  have ht : t.budgetApplies r b = s.budgetApplies r b := by
    unfold State.budgetApplies State.epochsOn
    rw [hd, hr]
  unfold State.spentBinding Binding.afterTaken
  rw [ht, hj]
  by_cases hc : BudgetChecked s r b
  · rw [if_pos ((budgetApplies_iff s r b).mpr hc), hn hc, if_pos hc]
    rfl
  · rw [if_neg (fun h => hc ((budgetApplies_iff s r b).mp h)), if_neg hc]
    rfl

/-- The pointer has no part in the charge of a binding. -/
theorem chargeBinding_pointer (s : State) (i k : Slot) (r : Request) (js : List Judged) :
    { chargeBinding s i r js with pointer := k } = chargeBinding { s with pointer := k } i r js := by
  unfold chargeBinding
  have h : State.decodeBinding { s with pointer := k } i = s.decodeBinding i := rfl
  rw [h]
  cases s.decodeBinding i <;> rfl

/-- A decode that captures nothing: its place, its fault and its charge. -/
theorem takeDecode_of_noWatch {s : State} {i : Slot} {r : Request} {js : List Judged}
    (h : s.watchWindow i r js = none) : takeDecode s i r js =
      chargeBinding (logDecode
        (placeDecode (s.setQueues i ((s.queues i).pop r.lane)) i r false js) i r js) i r js := by
  unfold takeDecode
  rw [h]
  rfl

/-- A decode that captures a watched write (R66, R119). -/
theorem takeDecode_of_watch {s : State} {i : Slot} {r : Request} {js : List Judged} {w : Window}
    (h : s.watchWindow i r js = some w) : takeDecode s i r js =
      capture (chargeBinding (logDecode
        (placeDecode (s.setQueues i ((s.queues i).pop r.lane)) i r true js) i r js) i r js) i
        (captured r w) := by
  unfold takeDecode
  rw [h]
  rfl

/-- The state at a decode that finds every granule issuable, before its binding is charged. -/
theorem placed_allIssuable (s : State) (i : Slot) (r : Request) (watched : Bool) (p : MemPort)
    (target : Nat → Addr) (x : Bool) :
    { logDecode (placeDecode (s.setQueues i ((s.queues i).pop r.lane)) i r watched
        (allIssuable (granuleCount r.addr r.length) p target x)) i r
        (allIssuable (granuleCount r.addr r.length) p target x) with pointer := i + 1 } =
      s.decoded i r p target watched (s.presetData i r) := by
  unfold logDecode
  rw [lowestFailing_allIssuable, placeDecode_allIssuable]
  rfl

/-- A taken decode that finds every granule issuable and captures nothing (R41, R56, R91). -/
theorem takeDecode_allIssuable {s : State} {i : Slot} {r : Request} {p : MemPort}
    {target : Nat → Addr} {x : Bool}
    (hw : s.watchWindow i r (allIssuable (granuleCount r.addr r.length) p target x) = none) :
    { takeDecode s i r (allIssuable (granuleCount r.addr r.length) p target x) with
        pointer := i + 1 } =
      chargeBinding (s.decoded i r p target false (s.presetData i r)) i r
        (allIssuable (granuleCount r.addr r.length) p target x) := by
  rw [takeDecode_of_noWatch hw, chargeBinding_pointer, placed_allIssuable]

/-! ### What a taken decode leaves alone -/

/-- A taken decode leaves the queues and the record of every other slot (R36, R39). -/
theorem takeDecode_otherSlots (s : State) (i : Slot) (r : Request) (js : List Judged) {j : Slot}
    (h : j ≠ i) : (takeDecode s i r js).queues j = s.queues j ∧
      (takeDecode s i r js).slot j = s.slot j := by
  have hq : ∀ q, (s.setQueues i q).queues j = s.queues j :=
    fun q => State.queues_setQueues_ne s q h
  unfold takeDecode capture chargeBinding logDecode placeDecode
  dsimp only
  split
  · constructor
    · rw [(takeForce_frame _ i).otherQueues j h]
      repeat' split
      all_goals exact hq _
    · rw [(takeForce_frame _ i).otherSlots j h, State.slot_setSlot_ne _ _ h]
      split
      · rw [State.slot_setSlot_ne _ _ h]
        repeat' split
        all_goals rfl
      · repeat' split
        all_goals rfl
  · constructor
    · repeat' split
      all_goals exact hq _
    · split
      · rw [State.slot_setSlot_ne _ _ h]
        repeat' split
        all_goals rfl
      · repeat' split
        all_goals rfl

/-- The granule work of a decode belongs to its slot and to a granule found issuable (R56). -/
theorem mem_allWork {i : Slot} {r : Request} {w : Bool} {js : List Judged} {e : TrackerEntry}
    (h : e ∈ allWork i r w js) :
    e.slot = i ∧ e.op = r.op ∧ ∃ j ∈ js, ∃ p, j.outcome = .issuable e.target p := by
  unfold allWork at h
  rw [List.mem_filterMap] at h
  obtain ⟨⟨j, n⟩, hm, he⟩ := h
  have hjm : j ∈ js := List.mem_of_getElem? (List.mem_zipIdx_iff_getElem?.mp hm)
  unfold granuleWork at he
  dsimp only at he
  split at he
  · next t p ho =>
    obtain rfl := Option.some.inj he
    exact ⟨rfl, rfl, j, hjm, p, ho⟩
  · simp at he

/-- A taken decode adds nothing to the tracker but its own granule work. -/
theorem mem_takeDecode_tracker {s : State} {i : Slot} {r : Request} {js : List Judged}
    {e : TrackerEntry} (h : e ∈ (takeDecode s i r js).tracker) :
    e ∈ s.tracker ∨ ∃ w, e ∈ allWork i r w js := by
  have key : ∀ w : Bool, e ∈ (chargeBinding (logDecode
      (placeDecode (s.setQueues i ((s.queues i).pop r.lane)) i r w js) i r js) i r js).tracker →
      e ∈ s.tracker ∨ ∃ w, e ∈ allWork i r w js := by
    intro w h
    have h1 : ∀ t : State, (chargeBinding (logDecode t i r js) i r js).tracker = t.tracker := by
      intro t
      unfold chargeBinding logDecode
      split <;> split <;> rfl
    rw [h1] at h
    unfold placeDecode at h
    split at h
    · exact Or.inl h
    · rcases List.mem_append.mp h with h | h
      · exact Or.inl h
      · exact Or.inr ⟨w, h⟩
  cases hw : s.watchWindow i r js with
  | none =>
    rw [takeDecode_of_noWatch hw] at h
    exact key _ h
  | some w =>
    rw [takeDecode_of_watch hw] at h
    unfold capture at h
    rw [(takeForce_frame _ i).tracker] at h
    exact key _ h

/-- DECODE_ATTEMPT of the chosen slot. -/
theorem exec_decodeAttempt_of_chosen {s : State} {i : Slot} {r : Request} (h : Chosen s i r) :
    exec .decodeAttempt s = .next (attempt s i r).latchNotice := by
  simp only [exec, execDecodeAttempt, finish, decodeStep_of_chosen h]

end Sys2Proof.Machine
end

