-- ==== Sys2Proof/Laws/Ports.lean ====
section
/-! SUPPORT. The memory ports: the oldest granule that waits, the operation a response names, and the parts of a settlement. -/

namespace Sys2Proof.Machine

/-! ### Issue (R73, R76, R77) -/

theorem waitsFor_iff (e : TrackerEntry) (p : MemPort) :
    e.waitsFor p = true ↔ e.port = p ∧ e.flight = none := by
  simp [TrackerEntry.waitsFor]

theorem oldestWaiting_eq_some {s : State} {p : MemPort} {before after : List TrackerEntry}
    {e : TrackerEntry} (h : OldestWaiting s p before e after) : s.oldestWaiting p = some e := by
  obtain ⟨h1, h2, h3, h4⟩ := h
  unfold State.oldestWaiting
  rw [h1]
  exact find_split _ _ _ _ (fun x hx => by rw [← Bool.not_eq_true, waitsFor_iff]; exact h4 x hx)
    ((waitsFor_iff e p).mpr ⟨h2, h3⟩)

theorem oldestWaiting_eq_none {s : State} {p : MemPort} (h : NoneWaiting s p) :
    s.oldestWaiting p = none := by
  unfold State.oldestWaiting
  rw [List.find?_eq_none]
  intro x hx
  rw [waitsFor_iff]
  exact h x hx

/-- The oldest granule that waits, changed where it stands in the tracker. -/
theorem updateFirst_oldestWaiting {s : State} {p : MemPort} {before after : List TrackerEntry}
    {e : TrackerEntry} (h : OldestWaiting s p before e after) (f : TrackerEntry → TrackerEntry) :
    updateFirst (·.waitsFor p) f s.tracker = before ++ f e :: after := by
  obtain ⟨h1, h2, h3, h4⟩ := h
  rw [h1]
  exact updateFirst_split _ _ _ _ _
    (fun x hx => by rw [← Bool.not_eq_true, waitsFor_iff]; exact h4 x hx)
    ((waitsFor_iff e p).mpr ⟨h2, h3⟩)

theorem offer_eq_some {s : State} {o : TableOp} {rest : List TableOp} (h : Offers s o rest) :
    s.tfu.offer = some o := by
  simp [Tfu.offer, h.1, h.2]

theorem offer_eq_none {s : State} (h : OffersNothing s) : s.tfu.offer = none := by
  unfold Tfu.offer
  rcases h with h | h
  · split <;> simp [h]
  · cases hx : s.tfu.inFlight <;> simp_all

/-! ### The operation a response or an expiry names (R78) -/

theorem issuedAs_iff (e : TrackerEntry) (p : MemPort) (id : IssueId) :
    e.issuedAs p id = true ↔ e.port = p ∧ ∃ f, e.flight = some f ∧ f.id = id := by
  simp [TrackerEntry.issuedAs, Option.map_eq_some_iff]

theorem GranuleIssued.find {s : State} {p : MemPort} {id : IssueId}
    {before after : List TrackerEntry} {e : TrackerEntry} (h : GranuleIssued s p id before e after) :
    s.tracker.find? (fun x => x.issuedAs p id) = some e := by
  rw [h.split]
  exact find_split _ _ _ _
    (fun x hx => by rw [← Bool.not_eq_true, issuedAs_iff]; exact h.first x hx)
    ((issuedAs_iff e p id).mpr ⟨h.port, h.issued⟩)

theorem GranuleIssued.erase {s : State} {p : MemPort} {id : IssueId}
    {before after : List TrackerEntry} {e : TrackerEntry} (h : GranuleIssued s p id before e after) :
    s.tracker.eraseP (fun x => x.issuedAs p id) = before ++ after := by
  rw [h.split]
  exact eraseP_split _ _ _ _
    (fun x hx => by rw [← Bool.not_eq_true, issuedAs_iff]; exact h.first x hx)
    ((issuedAs_iff e p id).mpr ⟨h.port, h.issued⟩)

theorem isOf_iff (o : Outstanding) (e : TrackerEntry) :
    o.isOf e = true ↔ o.slot = e.slot ∧ o.tag = e.tag := by
  simp [Outstanding.isOf]

theorem EntryOf.find {s : State} {e : TrackerEntry} {before after : List Outstanding}
    {o : Outstanding} (h : EntryOf s e before o after) :
    s.outstanding.find? (fun x => x.isOf e) = some o := by
  rw [h.split]
  exact find_split _ _ _ _ (fun x hx => by rw [← Bool.not_eq_true, isOf_iff]; exact h.first x hx)
    ((isOf_iff o e).mpr h.own)

theorem EntryOf.erase {s : State} {e : TrackerEntry} {before after : List Outstanding}
    {o : Outstanding} (h : EntryOf s e before o after) :
    s.outstanding.eraseP (fun x => x.isOf e) = before ++ after := by
  rw [h.split]
  exact eraseP_split _ _ _ _ (fun x hx => by rw [← Bool.not_eq_true, isOf_iff]; exact h.first x hx)
    ((isOf_iff o e).mpr h.own)

theorem EntryOf.update {s : State} {e : TrackerEntry} {before after : List Outstanding}
    {o : Outstanding} (h : EntryOf s e before o after) (f : Outstanding → Outstanding) :
    updateFirst (fun x => x.isOf e) f s.outstanding = before ++ f o :: after := by
  rw [h.split]
  exact updateFirst_split _ _ _ _ _
    (fun x hx => by rw [← Bool.not_eq_true, isOf_iff]; exact h.first x hx)
    ((isOf_iff o e).mpr h.own)

theorem settle_of_granule {s : State} {p : MemPort} {id : IssueId}
    {before after : List TrackerEntry} {e : TrackerEntry} (h : GranuleIssued s p id before e after)
    (x : Settlement) : settle s p id x = settleGranule s p id e x := by
  unfold settle
  rw [h.find]

theorem settle_of_table {s : State} {id : IssueId} {o : TableOp} (h : TableIssued s id o)
    (x : Settlement) : ∃ time, settle s .primary id x =
      settleTable s { operation := o, flight := { id := id, time := time } } x := by
  obtain ⟨time, ht⟩ := h.inFlight
  have hn : s.tracker.find? (fun e => e.issuedAs .primary id) = none := by
    rw [List.find?_eq_none]
    intro y hy
    rw [issuedAs_iff]
    exact h.noGranule y hy
  refine ⟨time, ?_⟩
  unfold settle State.tableFlight
  rw [hn, ht]
  simp [Option.filter]

theorem respond_of_inUse {s : State} {p : MemPort} {id : IssueId} (h : (s.pool p).get id = .inUse)
    (st : RespStatus) (data : List Byte) :
    respond s p id st data = settle s p id (.response st data) := by
  unfold respond
  rw [h]

/-! ### An expiry of the response limit (R82) -/

/-- No time passes: nothing changes, the count of a running timer being short of the epoch length. -/
theorem passTime_zero {s : State} (h : s.timer.running = true → s.timer.count < s.epochLength) :
    passTime s 0 = s := by
  unfold passTime
  by_cases hr : s.timer.running = true
  · simp only [hr, if_true, Nat.add_zero, h hr]; rfl
  · simp only [hr]; rfl

@[simp] theorem epochFallsAt_zero (s : State) : s.epochFallsAt 0 = false := by
  simp [State.epochFallsAt]

/-- The expiry of an operation whose age has reached the limit settles it by timeout, at once. -/
theorem expire_of_reached {s : State} {p : MemPort} {id : IssueId} {f : Flight}
    (hf : s.flightOf p id = some f) (hl : s.mgmt.responseLimit ≠ 0)
    (ht : f.time + s.mgmt.responseLimit.toNat ≤ s.timer.now)
    (hc : s.timer.running = true → s.timer.count < s.epochLength) :
    expire s p id = settle s p id .timeout := by
  unfold expire
  simp only [hf, hl, if_false, Nat.sub_eq_zero_of_le ht, epochFallsAt_zero, passTime_zero hc]
  rfl

theorem flightOf_granule {s : State} {p : MemPort} {id : IssueId} {before after : List TrackerEntry}
    {e : TrackerEntry} (h : GranuleIssued s p id before e after) :
    s.flightOf p id = e.flight := by
  unfold State.flightOf
  rw [h.find]

/-! ### What follows a settlement (R72, R158, R163, R169) -/

theorem deviceProgress_of_running {s : State} (hs : s.device ≠ .starting)
    (hq : s.device ≠ .quiescing) : deviceProgress s = s := by
  unfold deviceProgress State.startEnds State.quiesceEnds
  simp [hs, hq]

theorem queueRootRead_of_running {s : State} (hs : s.device ≠ .starting) : queueRootRead s = s := by
  unfold queueRootRead
  simp [hs]

theorem afterGranule_of_endsNothing {s : State} {i : Slot} (h : EndsNothing s i) :
    afterGranule s i = s := by
  obtain ⟨h1, h2, h3⟩ := h
  unfold afterGranule
  rw [if_neg h1, queueRootRead_of_running h2, deviceProgress_of_running h2 h3]

/-! ### The parts of a settlement -/

theorem contextOf_eq (s : State) (i : Slot) : s.contextOf i = s.boundRecord i := rfl

/-- A granule of an entry is unsettled for the model exactly when one is (R41). -/
theorem any_unsettled_iff (o : Outstanding) :
    o.granules.any (·.unsettled) = true ↔ ∃ j, o.unsettledAt j := by
  rw [List.any_eq_true]
  constructor
  · rintro ⟨g, hg, hu⟩
    obtain ⟨j, hj⟩ := List.getElem?_of_mem hg
    refine ⟨j, ?_⟩
    unfold OutGranule.unsettled GranuleOutcome.isIssuable at hu
    obtain ⟨outcome, settled⟩ := g
    cases outcome <;> simp at hu
    subst hu
    exact ⟨_, _, hj⟩
  · rintro ⟨j, t, p, hj⟩
    exact ⟨_, List.mem_of_getElem? hj, rfl⟩

/-- A settled granule's entry is put back, or completed when no granule is unsettled (R42, R79). -/
theorem putSettled_eq {s : State} {e : TrackerEntry} {before after : List Outstanding}
    {o : Outstanding} (h : EntryOf s e before o after) (o' : Outstanding) :
    ((∃ j, o'.unsettledAt j) →
      putSettled s e o' = { s with outstanding := before ++ o' :: after }) ∧
    ((¬∃ j, o'.unsettledAt j) → putSettled s e o' =
      { s with
        outstanding := before ++ after
        completions := s.completions ++ [o'.completion] }) := by
  unfold putSettled
  constructor
  · intro hu
    rw [if_pos ((any_unsettled_iff o').mpr hu), h.update]
  · intro hu
    rw [if_neg (fun hc => hu ((any_unsettled_iff o').mp hc)), h.erase]
    rfl

/-- A settlement of a granule that is not watched and ends nothing else: its parts in order. -/
theorem settleGranule_plain {s : State} {p : MemPort} {id : IssueId} {e : TrackerEntry}
    {x : Settlement} (hw : e.watched = false)
    (hn : EndsNothing ((settleRequest (logSettlement (releaseGranule s p id x.idState) e x) e
      x).spendFree (e.count - x.data.length)) e.slot) :
    settleGranule s p id e x =
      (settleRequest (logSettlement (releaseGranule s p id x.idState) e x) e x).spendFree
        (e.count - x.data.length) := by
  unfold settleGranule reportWatch
  rw [hw]
  exact afterGranule_of_endsNothing hn

theorem releaseGranule_eq {s : State} {p : MemPort} {id : IssueId}
    {before after : List TrackerEntry} {e : TrackerEntry} (h : GranuleIssued s p id before e after)
    (st : IdState) : releaseGranule s p id st = s.granuleReleased p id st (before ++ after) := by
  unfold releaseGranule
  rw [h.erase]
  cases p <;> rfl

/-- The parts of a settlement of a granule change only its request, the log and the free count. -/
theorem settled_parts (s : State) (e : TrackerEntry) (x : Settlement) (n : Nat) :
    ((settleRequest (logSettlement s e x) e x).spendFree n).device = s.device ∧
    ((settleRequest (logSettlement s e x) e x).spendFree n).slots = s.slots ∧
    ((settleRequest (logSettlement s e x) e x).spendFree n).tracker = s.tracker := by
  have h1 : ∀ t : State, (settleRequest t e x).device = t.device ∧
      (settleRequest t e x).slots = t.slots ∧ (settleRequest t e x).tracker = t.tracker := by
    intro t
    unfold settleRequest putSettled
    split
    · split <;> exact ⟨rfl, rfl, rfl⟩
    · exact ⟨rfl, rfl, rfl⟩
  have h2 : (logSettlement s e x).device = s.device ∧ (logSettlement s e x).slots = s.slots ∧
      (logSettlement s e x).tracker = s.tracker := by
    unfold logSettlement
    split <;> exact ⟨rfl, rfl, rfl⟩
  exact ⟨(h1 _).1.trans h2.1, (h1 _).2.1.trans h2.2.1, (h1 _).2.2.trans h2.2.2⟩

/-- A settlement of a granule that is not watched, in a state in which it ends nothing else. -/
theorem settleGranule_of_endsNothing {s : State} {p : MemPort} {id : IssueId} {e : TrackerEntry}
    (x : Settlement) (hw : e.watched = false) (hn : EndsNothing s e.slot) :
    settleGranule s p id e x =
      (settleRequest (logSettlement (releaseGranule s p id x.idState) e x) e x).spendFree
        (e.count - x.data.length) := by
  refine settleGranule_plain hw ?_
  obtain ⟨h1, h2, _⟩ := settled_parts (releaseGranule s p id x.idState) e x (e.count - x.data.length)
  have h3 : (releaseGranule s p id x.idState).device = s.device := by cases p <;> rfl
  have h4 : (releaseGranule s p id x.idState).slots = s.slots := by cases p <;> rfl
  refine ⟨?_, ?_, ?_⟩
  · unfold State.slot
    rw [h2, h4]
    exact hn.1
  · rw [h1, h3]
    exact hn.2.1
  · rw [h1, h3]
    exact hn.2.2

/-- The entry stands where it stood once its granule has left the tracker. -/
theorem EntryOf.released {s : State} {e : TrackerEntry} {before after : List Outstanding}
    {o : Outstanding} (h : EntryOf s e before o after) (p : MemPort) (id : IssueId) (st : IdState)
    (t : List TrackerEntry) : EntryOf (s.granuleReleased p id st t) e before o after :=
  ⟨by cases p <;> exact h.split, h.own, h.first⟩

theorem granuleReleased_outstanding (s : State) (p : MemPort) (id : IssueId) (st : IdState)
    (t : List TrackerEntry) : (s.granuleReleased p id st t).outstanding = s.outstanding := by
  cases p <;> rfl

/-- The fault record of a settlement, in the words of the statements (R83). -/
theorem settlementFault_eq {s : State} {e : TrackerEntry} {before after : List Outstanding}
    {o : Outstanding} (h : EntryOf s e before o after) (k : FaultKind) :
    settlementFault s e k = granuleFault s k e o := by
  unfold settlementFault granuleFault
  rw [h.find]
  rfl

end Sys2Proof.Machine
end

