-- ==== Sys2Proof/Laws/Switch.lean ====
section
/-! SUPPORT. The settlement of a switch's table operation: how it reaches the switch engine, and the end of a slot's event. -/

namespace Sys2Proof.Machine

/-! ### The end of a slot's event -/

theorem takeForce_of_none {s : State} {i : Slot} (h : (s.slot i).pendingForce = none) :
    takeForce s i = s := by
  unfold takeForce
  simp only [h]

/-- An event of a slot with no pending force that does not leave it UNBOUND ends with it. -/
theorem conclude_of_quiet {s : State} {i : Slot} (hf : (s.slot i).pendingForce = none)
    (hs : (s.slot i).state ≠ .unbound) : conclude s i = s := by
  unfold conclude
  rw [takeForce_of_none hf]
  unfold answerIfUnbound
  simp [hs]

/-! ### A table operation's way to its switch (R77, R131) -/

theorem tableSettled_slot (s : State) (id : IssueId) (st : IdState) (n : Nat) (i : Slot) :
    (s.tableSettled id st n).slot i = s.slot i := rfl

theorem tableSettled_device (s : State) (id : IssueId) (st : IdState) (n : Nat) :
    (s.tableSettled id st n).device = s.device := rfl

/-- A slot's table operation that settles OK is handed to its switch, with the data of a read that
carries its bytes (R131). -/
theorem settle_of_slotOp_ok {s : State} {id : IssueId} {o : TableOp} {i : Slot} {st : SlotState}
    {sw : SwitchRec} {data : List Byte} (ht : TableIssued s id o) (ho : o.owner = some i)
    (hs : Switching s i st sw) (hw : o.what.inStage st = true)
    (hd : o.op = .read → data.length = o.length) :
    settle s .primary id (.response .ok data) =
      deviceProgress (conclude
        (slotOpOk (s.tableSettled id .free (o.length - data.length)) i sw o.what
          (if o.op = .read then data else [])) i) := by
  obtain ⟨time, he⟩ := settle_of_table ht (.response .ok data)
  rw [he]
  have hr : ((releaseTable s id .free).spendFree (o.length - data.length)) =
      s.tableSettled id .free (o.length - data.length) := rfl
  have hx : (if o.op = .read then s.fitData data o.length else []) =
      if o.op = .read then data else [] := by
    split
    next h =>
      unfold State.fitData
      rw [← hd h]
      simp [freeBytes]
    · rfl
  unfold settleTable handOutcome tableOutcome slotOpSettled
  simp only [Settlement.idState, Settlement.data, ho, hr, tableSettled_slot, hs.switch, hs.state, hw,
    hx, if_true]

end Sys2Proof.Machine
end

