-- ==== Sys2Proof/Laws/Ending.lean ====
section
/-! SUPPORT. The switch operations in the words of the statements: what a failure, a load's opening, a start, a resolution, a commit, the end of a switch, the answers of an UNBOUND slot and the taking of a force do, one lemma each. -/

namespace Sys2Proof.Machine

/-! ### Queued requests of UNBOUND slots answered (R32) -/

theorem foldl_answerUnbound (rs : List Request) (s : State) :
    rs.foldl answerUnbound s =
      { s with
        completions := s.completions ++ rs.map unsupported
        log := (rs.map unboundFault).foldl FaultLog.join s.log } := by
  induction rs generalizing s with
  | nil => simp
  | cons r rs ih =>
    rw [List.foldl_cons, ih]
    have : answerUnbound s r =
        { s with
          completions := s.completions ++ [unsupported r], log := s.log.join (unboundFault r) } := by
      unfold answerUnbound unsupported
      rw [answerOf_eq]; rfl
    rw [this]
    simp

/-- The queues of a slot answered. -/
theorem answerUnboundQueues_eq (s : State) (i : Slot) :
    s.answerUnboundQueues i =
      State.setQueues
        { s with
          completions := s.completions ++ (s.queued i).map unsupported
          log := ((s.queued i).map unboundFault).foldl FaultLog.join s.log } i
        { regular := [], priority := [] } := by
  unfold State.answerUnboundQueues
  rw [foldl_answerUnbound]
  rfl

/-- A slot whose queues are empty has no request to answer. -/
theorem answerUnboundQueues_of_empty {s : State} {i : Slot} (h : s.queued i = []) :
    s.answerUnboundQueues i = s := by
  have hq : s.queues i = { regular := [], priority := [] } := by
    unfold State.queued at h
    simp at h
    cases hx : s.queues i
    rw [hx] at h
    simp_all
  rw [answerUnboundQueues_eq, h, ← hq]
  unfold State.setQueues State.queues
  simp

/-- The requests of a slot that are answered when the UNBOUND slots are (R169). -/
def State.unboundQueued (s : State) (i : Slot) : List Request :=
  if (s.slot i).state = .unbound then s.queued i else []

theorem answerUnboundSlot_eq (s : State) (i : Slot) :
    answerUnboundSlot s i =
      { s with
        intake := (answerUnboundSlot s i).intake
        completions := s.completions ++ (s.unboundQueued i).map unsupported
        log := ((s.unboundQueued i).map unboundFault).foldl FaultLog.join s.log } := by
  unfold answerUnboundSlot State.unboundQueued
  split
  · rw [answerUnboundQueues_eq]; rfl
  · simp

theorem answerUnboundSlot_queues (s : State) (i j : Slot) :
    (answerUnboundSlot s i).queues j =
      if j = i ∧ (s.slot i).state = .unbound then { regular := [], priority := [] }
      else s.queues j := by
  unfold answerUnboundSlot
  by_cases hu : (s.slot i).state = .unbound
  · rw [if_pos hu, answerUnboundQueues_eq]
    by_cases hj : j = i
    · subst hj; rw [if_pos ⟨rfl, hu⟩, State.queues_setQueues]
    · rw [if_neg (fun h => hj h.1), State.queues_setQueues_ne _ _ hj]; rfl
  · rw [if_neg hu, if_neg (fun h => hu h.2)]

/-- The queues of the UNBOUND slots of a list answered, slot after slot: completions, log and queues
change, and nothing else. -/
theorem foldl_answerUnboundSlot (l : List Slot) (hn : l.Nodup) (s : State) :
    (l.foldl answerUnboundSlot s =
      { s with
        intake := (l.foldl answerUnboundSlot s).intake
        completions := s.completions ++ l.flatMap fun j => (s.unboundQueued j).map unsupported
        log := (l.flatMap fun j => (s.unboundQueued j).map unboundFault).foldl FaultLog.join
          s.log }) ∧
    ∀ j, (l.foldl answerUnboundSlot s).queues j =
      if j ∈ l ∧ (s.slot j).state = .unbound then { regular := [], priority := [] }
      else s.queues j := by
  induction l generalizing s with
  | nil => simp
  | cons i l ih =>
    obtain ⟨hi, hl⟩ := List.nodup_cons.mp hn
    rw [List.foldl_cons]
    obtain ⟨h1, h2⟩ := ih hl (answerUnboundSlot s i)
    have hsl : ∀ j, (answerUnboundSlot s i).slot j = s.slot j := by
      intro j; rw [answerUnboundSlot_eq]; rfl
    have hq : ∀ j ∈ l, (answerUnboundSlot s i).unboundQueued j = s.unboundQueued j := by
      intro j hj
      have hji : j ≠ i := fun h => hi (h ▸ hj)
      have hqj := answerUnboundSlot_queues s i j
      rw [if_neg (fun h => hji h.1)] at hqj
      unfold State.unboundQueued State.queued
      rw [hsl, hqj]
    refine ⟨?_, ?_⟩
    · have g1 : (l.flatMap fun j => ((answerUnboundSlot s i).unboundQueued j).map unsupported) =
          l.flatMap fun j => (s.unboundQueued j).map unsupported :=
        List.flatMap_congr fun j hj => by rw [hq j hj]
      have g2 : (l.flatMap fun j => ((answerUnboundSlot s i).unboundQueued j).map unboundFault) =
          l.flatMap fun j => (s.unboundQueued j).map unboundFault :=
        List.flatMap_congr fun j hj => by rw [hq j hj]
      rw [g1, g2] at h1
      generalize List.foldl answerUnboundSlot (answerUnboundSlot s i) l = w at *
      have e := answerUnboundSlot_eq s i
      generalize answerUnboundSlot s i = v at *
      rw [h1, e]
      simp [List.flatMap_cons, List.foldl_append]
    · intro j
      rw [h2, hsl, answerUnboundSlot_queues]
      by_cases hji : j = i
      · subst hji; simp [hi]
      · simp [hji]

/-! ### How the slot of an ended switch comes to rest (R19, R144)

The lemmas of an operation first give it with `State.restBare`, the model's own end of a switch before the
end of the event, and then with `State.comesToRest`, which holds the end of the event too. -/

/-- The end of a switch before the end of its event. -/
def State.restBare (s : State) (i : Slot) (r : SlotRecord) : State := comeToRest (s.setSlot i r) i

/-- A way to come to rest that does not read the record that the slot held. -/
def Overwrites (rest : State → Slot → SlotRecord → State) (i : Slot) : Prop :=
  ∀ s r r', rest (s.setSlot i r') i r = rest s i r

theorem overwrites_setSlot (i : Slot) : Overwrites State.setSlot i := fun s r r' =>
  State.setSlot_setSlot s i r' r

theorem overwrites_restBare (i : Slot) : Overwrites State.restBare i := fun s r r' => by
  unfold State.restBare; rw [State.setSlot_setSlot]

/-- Two ways that agree on the records that keep what `r` has pending and requested. -/
def AgreeOn (rest rest' : State → Slot → SlotRecord → State) (i : Slot) (r : SlotRecord) : Prop :=
  ∀ s r', r'.disableReq = r.disableReq → r'.pendingForce = r.pendingForce → rest s i r' = rest' s i r'

theorem agree_restBare {i : Slot} {r : SlotRecord} (hd : r.disableReq = false)
    (hf : r.pendingForce = none) : AgreeOn State.restBare State.setSlot i r := by
  intro s r' h1 h2
  unfold State.restBare comeToRest
  rw [State.slot_setSlot]
  simp [h1.trans hd, h2.trans hf]

variable {rest rest' : State → Slot → SlotRecord → State} {i : Slot}

theorem closingWith_setSlot (s : State) (i : Slot) (r r' : SlotRecord) (st : SlotState)
    (x : Option SwitchRec) (sw : SwitchRec) (o : TableOp) :
    (s.setSlot i r').closingWith i { r with state := st, switch := x } sw o =
      s.closingWith i r sw o :=
  State.setSlot_setSlot { s with tfu := { s.tfu with queue := s.tfu.queue ++ [o] } } i _ _

theorem switchEndsBy_setSlot (h : Overwrites rest i) (s : State) (r r' : SlotRecord) (st : SlotState)
    (x : Option SwitchRec) (sw : SwitchRec) :
    (s.setSlot i r').switchEndsBy rest i { r with state := st, switch := x } sw =
      s.switchEndsBy rest i r sw := by
  unfold State.switchEndsBy
  split
  · exact h { s with mgmt := { s.mgmt with sticky := s.mgmt.sticky ||| 2#3 } } _ r'
  · exact h s _ r'

theorem resultOrEndBy_setSlot (h : Overwrites rest i) (s : State) (r r' : SlotRecord)
    (st : SlotState) (x : Option SwitchRec) (sw : SwitchRec) :
    (s.setSlot i r').resultOrEndBy rest i { r with state := st, switch := x } sw =
      s.resultOrEndBy rest i r sw := by
  unfold State.resultOrEndBy
  split
  · exact closingWith_setSlot ..
  · exact closingWith_setSlot ..
  · exact switchEndsBy_setSlot h ..

theorem switchFailedBy_setSlot (h : Overwrites rest i) (s : State) (r r' : SlotRecord)
    (st : SlotState) (x : Option SwitchRec) (sw : SwitchRec) (c : ResultCode) :
    (s.setSlot i r').switchFailedBy rest i { r with state := st, switch := x } sw c =
      s.switchFailedBy rest i r sw c :=
  resultOrEndBy_setSlot h
    { s with
      cache := s.withoutStaged i, map := s.withoutReserved i
      log := s.log.join (switchFault i r sw c) } r r' st x _

theorem loadOpenedBy_setSlot (h : Overwrites rest i) (s : State) (r r' : SlotRecord)
    (st : SlotState) (x : Option SwitchRec) (sw : SwitchRec) (a : Addr) :
    (s.setSlot i r').loadOpenedBy rest i { r with state := st, switch := x } sw a =
      s.loadOpenedBy rest i r sw a := by
  unfold State.loadOpenedBy
  have hb : (s.setSlot i r').recordBusy a ↔ s.recordBusy a := Iff.rfl
  simp only [switchFailedBy_setSlot h, hb]
  split
  · rfl
  · split
    · rfl
    · exact State.setSlot_setSlot
        { s with
          map := if sw.kind = .call ∨ sw.kind = .rebind ∨ sw.kind = .bind then
              s.map ++ [{ record := a, slot := i, role := .reserved }]
            else s.map
          tfu := { s.tfu with queue := s.tfu.queue ++ [readOp i .recordRead a 64] } } i _ _

theorem callOpenedBy_setSlot (h : Overwrites rest i) (s : State) (r r' : SlotRecord)
    (st : SlotState) (x : Option SwitchRec) (sw : SwitchRec) (c : RootCopy) (g : GateRef) :
    (s.setSlot i r').callOpenedBy rest i { r with state := st, switch := x } sw c g =
      s.callOpenedBy rest i r sw c g := by
  unfold State.callOpenedBy
  simp only [switchFailedBy_setSlot h]
  split
  · rfl
  · exact State.setSlot_setSlot { s with tfu := { s.tfu with queue := s.tfu.queue ++ [_] } } i _ _

theorem startOpenedBy_setSlot (h : Overwrites rest i) (s : State) (r r' : SlotRecord)
    (st : SlotState) (x : Option SwitchRec) (sw : SwitchRec) (c : RootCopy) :
    (s.setSlot i r').startOpenedBy rest i { r with state := st, switch := x } sw c =
      s.startOpenedBy rest i r sw c := by
  unfold State.startOpenedBy
  have h1 := switchFailedBy_setSlot h { s with cache := s.withoutCommitted i, map := s.withoutBound i }
    { r with binding := none, stack := [] } r' st x sw .notBound
  have h2 := loadOpenedBy_setSlot h { s with cache := s.withoutCommitted i, map := s.withoutBound i }
    { r with binding := none, stack := [] } r' st x sw c.boot[i]
  dsimp only
  split
  · exact h1
  · exact h2

/-- A force's taking does not read the record that the slot held. -/
theorem overwrites_forceStarts (f : PendingForce) : Overwrites (fun s i r => s.forceStarts i r f) i := by
  intro s r r'
  unfold State.forceStarts
  have h1 := fun sw c g => callOpenedBy_setSlot (overwrites_setSlot i) s r r' r.state r.switch sw c g
  have h2 := fun sw c => startOpenedBy_setSlot (overwrites_setSlot i) s r r' r.state r.switch sw c
  have hx : (s.setSlot i r').tracker = s.tracker := rfl
  have hr : (s.setSlot i r').root = s.root := rfl
  simp only [h1, h2, hx, hr, State.setSlot_setSlot]

/-- Nor does the whole of how a slot comes to rest. -/
theorem overwrites_comesToRest : Overwrites State.comesToRest i := by
  intro s r r'
  have hp : (s.setSlot i r').pendingTaken i r = s.pendingTaken i r := by
    unfold State.pendingTaken
    have hf := fun f q => overwrites_forceStarts (i := i) f s q r'
    simp only [State.setSlot_setSlot, hf]
    have hd : (s.setSlot i r').device = s.device := rfl
    have hs := State.setSlot_setSlot { s with mgmt := { s.mgmt with sticky := s.mgmt.sticky ||| 2#3 } } i r'
    rw [hd]
    split
    · rfl
    · split
      · exact hs _
      · rfl
    · rfl
  unfold State.comesToRest State.turnedOff
  rw [hp]
  split
  · exact State.setSlot_setSlot { s with cache := s.withoutCommitted i, map := s.withoutBound i } i r' _
  · rfl

/-! The operations of the statements read neither the slot state nor the switch record that the slot held. -/

theorem switchFailed_setSlot (s : State) (st : SlotState) (x : Option SwitchRec) (sw : SwitchRec)
    (c : ResultCode) :
    (s.setSlot i { s.slot i with state := st, switch := x }).switchFailed i sw c =
      s.switchFailed i sw c := by
  unfold State.switchFailed
  rw [State.slot_setSlot]
  exact switchFailedBy_setSlot overwrites_comesToRest s (s.slot i) _ st x sw c

theorem loadOpened_setSlot (s : State) (st : SlotState) (x : Option SwitchRec) (sw : SwitchRec)
    (a : Addr) :
    (s.setSlot i { s.slot i with state := st, switch := x }).loadOpened i sw a =
      s.loadOpened i sw a := by
  unfold State.loadOpened
  rw [State.slot_setSlot]
  exact loadOpenedBy_setSlot overwrites_comesToRest s (s.slot i) _ st x sw a

theorem startOpened_setSlot (s : State) (st : SlotState) (x : Option SwitchRec) (sw : SwitchRec)
    (c : RootCopy) :
    (s.setSlot i { s.slot i with state := st, switch := x }).startOpened i sw c =
      s.startOpened i sw c := by
  unfold State.startOpened
  rw [State.slot_setSlot]
  exact startOpenedBy_setSlot overwrites_comesToRest s (s.slot i) _ st x sw c

theorem resolvedTo_setSlot (s : State) (st : SlotState) (x : Option SwitchRec) (sw : SwitchRec)
    (b : Binding) (a : Addr) (l : Level) (tr : Bool) :
    (s.setSlot i { s.slot i with state := st, switch := x }).resolvedTo i sw b a l tr =
      s.resolvedTo i sw b a l tr := by
  unfold State.resolvedTo
  split
  · rw [State.slot_setSlot]
    exact State.setSlot_setSlot
      { s with tfu := { s.tfu with queue := s.tfu.queue ++ [savedOp i b] } } i _ _
  · exact loadOpened_setSlot s st x _ a

theorem switchEndsBy_congr {r : SlotRecord} (h : AgreeOn rest rest' i r) (s : State)
    (sw : SwitchRec) : s.switchEndsBy rest i r sw = s.switchEndsBy rest' i r sw := by
  unfold State.switchEndsBy
  split <;> exact h _ _ rfl rfl

theorem resultOrEndBy_congr {r : SlotRecord} (h : AgreeOn rest rest' i r) (s : State)
    (sw : SwitchRec) : s.resultOrEndBy rest i r sw = s.resultOrEndBy rest' i r sw := by
  unfold State.resultOrEndBy
  rw [switchEndsBy_congr h]

theorem switchFailedBy_congr {r : SlotRecord} (h : AgreeOn rest rest' i r) (s : State)
    (sw : SwitchRec) (c : ResultCode) :
    s.switchFailedBy rest i r sw c = s.switchFailedBy rest' i r sw c :=
  resultOrEndBy_congr h _ _

theorem loadOpenedBy_congr {r : SlotRecord} (h : AgreeOn rest rest' i r) (s : State) (sw : SwitchRec)
    (a : Addr) : s.loadOpenedBy rest i r sw a = s.loadOpenedBy rest' i r sw a := by
  unfold State.loadOpenedBy
  simp only [switchFailedBy_congr h]

theorem callOpenedBy_congr {r : SlotRecord} (h : AgreeOn rest rest' i r) (s : State) (sw : SwitchRec)
    (c : RootCopy) (g : GateRef) :
    s.callOpenedBy rest i r sw c g = s.callOpenedBy rest' i r sw c g := by
  unfold State.callOpenedBy
  simp only [switchFailedBy_congr h]

theorem startOpenedBy_congr {r : SlotRecord} (h : AgreeOn rest rest' i r) (s : State)
    (sw : SwitchRec) (c : RootCopy) :
    s.startOpenedBy rest i r sw c = s.startOpenedBy rest' i r sw c := by
  have h' : AgreeOn rest rest' i { r with binding := none, stack := [] } := h
  unfold State.startOpenedBy
  simp only [switchFailedBy_congr h', loadOpenedBy_congr h']

/-! ### The operations of the model (R136, R142, R143, R144) -/

theorem endState_eq (sw : SwitchRec) : sw.endState = sw.endsIn := by
  unfold SwitchRec.endState SwitchRec.endsIn
  have : sw.kind.rebinds = true ↔ sw.kind = .rebind ∨ sw.kind = .bind := by
    cases h : sw.kind <;> simp [SwitchKind.rebinds]
  simp only [this]

/-- The end of a switch. -/
theorem leaveSwitch_by (s : State) (i : Slot) (sw : SwitchRec) :
    leaveSwitch s i sw = s.switchEndsBy State.restBare i (s.slot i) sw := by
  unfold leaveSwitch reportForce State.switchEndsBy State.restBare
  rw [endState_eq]
  cases ho : sw.origin <;> cases hr : sw.result <;> simp [State.endForce, State.setSticky, forceDoneBit]
  rfl

/-- The result write of CLOSING, or the end of a switch that makes none. -/
theorem closeResult_by {s : State} {sw : SwitchRec} (hs : (s.slot i).switch = some sw) :
    closeResult s i sw = s.resultOrEndBy State.restBare i (s.slot i) sw := by
  unfold closeResult State.resultOrEndBy SwitchRec.resultWrite
  have hcw : ∀ o, (s.setSlotState i .closing).queueTable o = s.closingWith i (s.slot i) sw o := by
    intro o
    unfold State.closingWith
    rw [← hs]; rfl
  cases hp : sw.preempted with
  | some p => exact hcw _
  | none =>
    dsimp only
    cases ho : sw.origin <;> cases hm : sw.mailbox <;> cases hr : sw.result <;>
      first
        | exact hcw _
        | exact leaveSwitch_by s i sw

theorem headerWrite_of_failed {sw : SwitchRec} {c : ResultCode} (h : sw.result = some c)
    (hc : c ≠ .done) : sw.headerWrite = none := by
  unfold SwitchRec.headerWrite
  split <;> simp_all

theorem failureFault_eq (s : State) (i : Slot) (sw : SwitchRec) (c : ResultCode) :
    failureFault s i sw c = switchFault i (s.slot i) sw c := by
  unfold failureFault switchFault
  cases sw.origin <;> rfl

/-- A switch that fails. -/
theorem failSwitch_by {s : State} {sw : SwitchRec} {c : ResultCode}
    (hw : (s.slot i).switch = some sw) (hc : c ≠ .done) :
    failSwitch s i c = s.switchFailedBy State.restBare i (s.slot i) sw c := by
  have e : failSwitch s i c =
      closeResult
        (State.setSlot
          { s with
            cache := s.withoutStaged i, map := s.withoutReserved i
            log := s.log.join (switchFault i (s.slot i) sw c) } i
          { s.slot i with switch := some { sw with result := some c } }) i
        { sw with result := some c } := by
    unfold failSwitch
    rw [hw]
    dsimp only
    unfold close
    rw [headerWrite_of_failed (sw := { sw with result := some c }) rfl hc, failureFault_eq]
    rfl
  rw [e, closeResult_by (by rw [State.slot_setSlot]), State.slot_setSlot]
  exact resultOrEndBy_setSlot (overwrites_restBare i) _ (s.slot i) _ (s.slot i).state _ _

theorem alignedTo_iff (a : Addr) (n : Nat) : alignedTo a n = true ↔ a.toNat % n = 0 := by
  simp [alignedTo]

/-- A record address in the map, or any in a full map, cannot be claimed (R112). -/
theorem claim_of_busy {s : State} {a : Addr} (i : Slot) (h : s.recordBusy a) :
    s.claim a i = none := by
  unfold State.claim
  rcases h with ⟨e, he, ha⟩ | h
  · rw [if_pos]
    exact List.any_eq_true.mpr ⟨e, he, by simpa using ha⟩
  · simp [Config.mapEntries, h]

/-- Any other is claimed: it joins the map as RESERVED. -/
theorem claim_of_free {s : State} {a : Addr} (i : Slot) (h : ¬s.recordBusy a) :
    s.claim a i =
      some { s with map := s.map ++ [{ record := a, slot := i, role := .reserved }] } := by
  unfold State.recordBusy at h
  push Not at h
  unfold State.claim State.inMap
  rw [if_neg, if_neg]
  · simpa [Config.mapEntries] using h.2
  · simpa using h.1

/-- The opening of a load. -/
theorem beginLoad_by (s : State) (i : Slot) (sw : SwitchRec) (a : Addr) :
    beginLoad s i sw a = s.loadOpenedBy State.restBare i (s.slot i) sw a := by
  set r : SlotRecord :=
    { s.slot i with
      state := if sw.kind = .bind then .binding else .loading
      switch := some { sw with target := some a } } with hr
  have ht : (s.setSlotState i (if sw.kind = .bind then .binding else .loading)).setSwitch i
      (some { sw with target := some a }) = s.setSlot i r := by
    unfold State.setSlotState State.setSwitch
    simp only [State.slot_setSlot, State.setSlot_setSlot]
    rfl
  have hf : ∀ c, c ≠ ResultCode.done → failSwitch (s.setSlot i r) i c =
      s.switchFailedBy State.restBare i (s.slot i) { sw with target := some a } c := by
    intro c hc
    rw [failSwitch_by (sw := { sw with target := some a }) (by rw [State.slot_setSlot]) hc,
      State.slot_setSlot]
    exact switchFailedBy_setSlot (overwrites_restBare i) s (s.slot i) r r.state r.switch _ c
  have hcl : sw.kind.claims = true ↔ sw.kind = .call ∨ sw.kind = .rebind ∨ sw.kind = .bind := by
    cases h : sw.kind <;> simp [SwitchKind.claims]
  unfold beginLoad State.loadOpenedBy
  dsimp only
  rw [ht]
  by_cases ha : a.toNat % 64 = 0
  · have hal := (alignedTo_iff a 64).mpr ha
    rw [if_neg (show ¬alignedTo a 64 = false by rw [hal]; simp),
      if_neg (show ¬a.toNat % 64 ≠ 0 by simp [ha])]
    by_cases hc : sw.kind = .call ∨ sw.kind = .rebind ∨ sw.kind = .bind
    · rw [if_pos (hcl.mpr hc)]
      by_cases hbusy : s.recordBusy a
      · rw [claim_of_busy (s := s.setSlot i r) i hbusy, if_pos ⟨hc, hbusy⟩]
        exact hf _ (by simp)
      · rw [claim_of_free (s := s.setSlot i r) i hbusy, if_neg (fun x => hbusy x.2), if_pos hc]
        rfl
    · rw [if_neg (fun x => hc (hcl.mp x)), if_neg (fun x => hc x.1), if_neg hc]
      rfl
  · rw [if_pos (show alignedTo a 64 = false by simpa [alignedTo] using ha), if_pos ha]
    exact hf _ (by simp)

/-- A CALL that enters RESOLVING. -/
theorem resolveCall_by {s : State} {sw : SwitchRec} (hw : (s.slot i).switch = some sw) (c : RootCopy)
    (g : GateRef) :
    resolveCall (s.setSlotState i .resolving) i c g =
      s.callOpenedBy State.restBare i (s.slot i) sw c g := by
  unfold resolveCall State.callOpenedBy
  split
  · rw [failSwitch_by (sw := sw) (by unfold State.setSlotState; rw [State.slot_setSlot]; exact hw)
      (by simp)]
    unfold State.setSlotState
    rw [State.slot_setSlot]
    exact switchFailedBy_setSlot (overwrites_restBare i) s (s.slot i) _ .resolving (s.slot i).switch
      sw _
  · rw [← hw]; rfl

/-- The start of a REBIND or BIND. -/
theorem startBind_by {s : State} {sw : SwitchRec} {c : RootCopy} (hw : (s.slot i).switch = some sw)
    (hc : s.root = some c) :
    startBind s i sw = s.startOpenedBy State.restBare i (s.slot i) sw c := by
  have hb : s.bootOf i = c.boot[i] := by unfold State.bootOf; rw [hc]
  set t : State := { s with cache := s.withoutCommitted i, map := s.withoutBound i } with ht
  set r : SlotRecord := { s.slot i with binding := none, stack := [] } with hr
  have hst : startBind s i sw =
      if c.boot[i] = 0 then failSwitch (t.setSlot i r) i .notBound
      else beginLoad (t.setSlot i r) i sw c.boot[i] := by
    rw [← hb]; rfl
  rw [hst]
  unfold State.startOpenedBy
  dsimp only
  rw [failSwitch_by (sw := sw) (by rw [State.slot_setSlot]; exact hw) (by simp), beginLoad_by,
    State.slot_setSlot]
  have h1 := switchFailedBy_setSlot (overwrites_restBare i) t r r r.state r.switch sw .notBound
  have h2 := loadOpenedBy_setSlot (overwrites_restBare i) t r r r.state r.switch sw c.boot[i]
  split
  · exact h1
  · exact h2

/-- The commit of a switch of any kind and origin: its parts but the closing. -/
theorem commit_close {s : State} {sw : SwitchRec} {l : Loaded} {a : Addr}
    (hl : sw.loaded = some l) (ha : sw.target = some a) :
    commit s i sw l a =
      (let base : State :=
        { s with
          cache := s.cacheCommitted i, map := mapAfter s.map i sw (s.slot i).stack.length }
      let r : SlotRecord :=
        { s.slot i with
          binding := if sw.kind = .reload then (s.slot i).binding else some (s.newBinding sw l a)
          stack := stackAfter (s.slot i) sw, held := false }
      if sw.kind ≠ .reload ∧ l.fresh = true then
        base.closingWith i r { sw with result := some .done } (headerOp i a l.header)
      else base.resultOrEndBy State.restBare i r { sw with result := some .done }) := by
  set base : State :=
    { s.commitCache i with map := mapAfter s.map i sw (s.slot i).stack.length } with hb
  set r : SlotRecord :=
    { s.slot i with
      binding := if sw.kind = .reload then (s.slot i).binding else some (s.newBinding sw l a)
      stack := stackAfter (s.slot i) sw, held := false } with hr
  set x : SwitchRec := { sw with result := some .done } with hx
  show close (base.setSlot i { r with switch := some x }) i x = _
  unfold close
  dsimp only
  by_cases h : sw.kind ≠ .reload ∧ l.fresh = true
  · have hh : x.headerWrite = some (a, leBytes 8 l.headerCleared.toNat) := by
      unfold SwitchRec.headerWrite
      simp only [hx, hl, ha]
      rw [if_pos ⟨trivial, h⟩]
    rw [hh, if_pos h]
    show (State.setSlotState _ i .closing).queueTable _ = _
    unfold State.setSlotState State.closingWith
    rw [State.slot_setSlot, State.setSlot_setSlot]
    rfl
  · have hh : x.headerWrite = none := by
      unfold SwitchRec.headerWrite
      simp only [hx, hl, ha]
      rw [if_neg (fun y => h y.2)]
    rw [hh, if_neg h]
    show closeResult _ i x = _
    rw [closeResult_by (by rw [State.slot_setSlot]), State.slot_setSlot]
    exact resultOrEndBy_setSlot (overwrites_restBare i) base r { r with switch := some x } r.state
      (some x) x

theorem newBinding_eq {s : State} {sw : SwitchRec} {l : Loaded} {a : Addr} {root : RootCopy}
    {lv : Level} {b : Binding} (hr : s.root = some root) (h : NewBinding root l a lv b)
    (hlv : sw.newLevel l = lv) : s.newBinding sw l a = b := by
  obtain ⟨h1, h2, h3, h4, h5, h6⟩ := h
  unfold State.newBinding
  have hc : l.counts = (b.remaining, b.denials, b.switchIns) := by
    unfold Loaded.Counts at h5
    unfold Loaded.counts
    split_ifs at h5 ⊢
    · rw [h5.1, h5.2.1, h5.2.2]; rfl
    · rw [h5.1, h5.2.1, h5.2.2]
  have hf : s.fillOf l = b.fill := by
    unfold State.fillOf
    rw [h6, hr]
  rw [hc, hf, hlv, ← h1, ← h2, ← h3, ← h4]

/-- The map of a CALL that pushes its caller. -/
theorem map_push (m : List MapEntry) (i : Slot) (d : Nat) :
    (m.map (MapEntry.stackAt i d)).map (MapEntry.activate i) =
      m.map fun e =>
        if e.slot = i ∧ e.role = .active then { e with role := .stacked d }
        else if e.slot = i ∧ e.role = .reserved then { e with role := .active }
        else e := by
  rw [List.map_map]
  apply List.map_congr_left
  intro e _
  simp only [Function.comp, MapEntry.stackAt, MapEntry.activate, MapEntry.isActive,
    MapEntry.isReserved, Bool.and_eq_true, decide_eq_true_eq]
  by_cases h1 : e.slot = i ∧ e.role = .active
  · rw [if_pos h1, if_pos h1, if_neg (by simp)]
  · rw [if_neg h1, if_neg h1]

/-- The RESERVED record of a slot becomes ACTIVE. -/
theorem activate_eq (i : Slot) :
    MapEntry.activate i = fun e =>
      if e.slot = i ∧ e.role = .reserved then { e with role := .active } else e := by
  funext e
  simp [MapEntry.activate, MapEntry.isReserved]

/-- A FORCE that passes the checks of R149 is accepted. -/
theorem forceCommand_accepts {s : State} {i : Slot} {f : PendingForce} (hg : Guarding s)
    (hp : (s.slot i).pendingForce = none) (hd : (s.slot i).disableReq = false)
    (ho : (s.slot i).state ≠ .off) (hu : (s.slot i).state = .unbound → f = .rebind) :
    forceCommand i f s = (.ok, acceptForce s i f) := by
  unfold forceCommand
  rw [if_neg (by rcases hg with h | h | h <;> rw [h] <;> simp [DeviceState.guards]), hp,
    if_neg (by simp), if_neg (by simp [ho, hd]), if_neg]
  rintro ⟨h1, h2⟩
  rw [hu h2] at h1
  simp [PendingForce.isCall] at h1

/-! ### Drains, and forces taken (R72, R130, R150) -/

theorem trackerCount_eq_zero_iff {u : State} {i : Slot} :
    u.trackerCount i = 0 ↔ ∀ x ∈ u.tracker, x.slot ≠ i := by
  unfold State.trackerCount
  rw [List.length_eq_zero_iff, List.filter_eq_nil_iff]
  simp

/-- A slot with granules in the tracker waits in DRAINING. -/
theorem endDraining_waits {s : State} {i : Slot} (h : ∃ x ∈ s.tracker, x.slot = i) :
    endDraining s i = s := by
  obtain ⟨x, hx, hi⟩ := h
  unfold endDraining
  rw [if_neg (fun hc => trackerCount_eq_zero_iff.mp hc.2 x hx hi)]

/-- With none, its switch goes on. -/
theorem endDraining_done {s : State} {i : Slot} {sw : SwitchRec}
    (h : ∀ x ∈ s.tracker, x.slot ≠ i) (hs : (s.slot i).state = .draining)
    (hw : (s.slot i).switch = some sw) : endDraining s i = afterDraining s i sw := by
  unfold endDraining
  rw [if_pos ⟨hs, trackerCount_eq_zero_iff.mpr h⟩, hw]

theorem takes_iff (r : SlotRecord) (f : PendingForce) : r.takes f = true ↔ MayTake r f := by
  unfold SlotRecord.takes MayTake
  cases hs : r.state <;> simp
  cases hsw : r.switch <;> simp

/-- A pending force taken in a RUNNING device. -/
theorem takeForce_eq {s : State} {i : Slot} {f : PendingForce} (hr : s.device = .running)
    (hp : (s.slot i).pendingForce = some f) (ht : MayTake (s.slot i) f) :
    takeForce s i =
      endDraining
        (s.setSlot i
          { s.slot i with
            pendingForce := none, state := .draining
            switch := some ((s.slot i).forceTaken f) }) i := by
  have hft : (s.slot i).forceSwitch f = (s.slot i).forceTaken f := by cases f <;> rfl
  unfold takeForce
  simp only [hp]
  rw [if_pos ⟨hr, (takes_iff _ _).mpr ht⟩, hft]

/-- A pending force that may not be taken stays pending. -/
theorem takeForce_not {s : State} {i : Slot}
    (h : ∀ f, (s.slot i).pendingForce = some f → ¬MayTake (s.slot i) f) : takeForce s i = s := by
  unfold takeForce
  cases hp : (s.slot i).pendingForce with
  | none => simp only [hp]
  | some f =>
    simp only [hp]
    rw [if_neg (fun hc => h f hp ((takes_iff _ _).mp hc.2))]

/-- Nor is one taken in a device that is not RUNNING. -/
theorem takeForce_idle {s : State} {i : Slot} (h : s.device ≠ .running) : takeForce s i = s := by
  unfold takeForce
  dsimp only
  split
  · rfl
  · rw [if_neg (fun a => h a.1)]

theorem mem_forcedSlots {s : State} {i : Slot} :
    i ∈ s.forcedSlots ↔ ∃ f, (s.slot i).pendingForce = some f ∧ MayTake (s.slot i) f := by
  unfold State.forcedSlots
  rw [List.mem_filter]
  cases h : (s.slot i).pendingForce <;> simp [allSlots, takes_iff]

theorem forcedSlots_nodup (s : State) : s.forcedSlots.Nodup :=
  (List.nodup_finRange 16).filter _

/-- A force taken in a slot at rest. -/
theorem takeForce_rests {s : State} {r : SlotRecord} {f : PendingForce} (hrt : s.root ≠ none)
    (hr : s.device = .running) (hp : r.pendingForce = some f) (ht : MayTake r f)
    (hw : r.switch = none) (hd : r.disableReq = false) :
    takeForce (s.setSlot i r) i = s.forceStarts i { r with pendingForce := none } f := by
  obtain ⟨c, hc⟩ := Option.ne_none_iff_exists'.mp hrt
  have hft : r.forceTaken f = f.record := by
    unfold SlotRecord.forceTaken; rw [hw]; cases f <;> rfl
  set q : SlotRecord := { r with pendingForce := none } with hq
  set q' : SlotRecord := { q with state := .draining, switch := some (r.forceTaken f) } with hq'
  have e : takeForce (s.setSlot i r) i = endDraining (s.setSlot i q') i := by
    rw [takeForce_eq (s := s.setSlot i r) (i := i) (f := f) hr (by rw [State.slot_setSlot]; exact hp)
      (by rw [State.slot_setSlot]; exact ht), State.slot_setSlot, State.setSlot_setSlot]
  have hag : AgreeOn State.restBare State.setSlot i q := agree_restBare hd rfl
  rw [e]
  unfold State.forceStarts
  by_cases hx : ∃ x ∈ s.tracker, x.slot = i
  · rw [if_pos hx, endDraining_waits (s := s.setSlot i q') hx, hq', hft]
  · rw [if_neg hx, endDraining_done (s := s.setSlot i q') (sw := r.forceTaken f)
      (by push Not at hx; exact hx) (by rw [State.slot_setSlot]) (by rw [State.slot_setSlot]), hft]
    have hw' : ((s.setSlot i q').slot i).switch = some (r.forceTaken f) := by
      rw [State.slot_setSlot]
    cases f with
    | call g =>
      rw [hft] at hw'
      rw [hc]
      have : afterDraining (s.setSlot i q') i (PendingForce.call g).record =
          resolveCall ((s.setSlot i q').setSlotState i .resolving) i c g := by
        unfold afterDraining resolve
        dsimp only [forceRecord, PendingForce.record]
        rw [show (s.setSlot i q').root = some c from hc]
      rw [this, resolveCall_by hw', State.slot_setSlot, hq',
        callOpenedBy_setSlot (overwrites_restBare i) s q]
      exact callOpenedBy_congr hag s _ c g
    | rebind =>
      rw [hft] at hw'
      rw [hc]
      show startBind (s.setSlot i q') i PendingForce.rebind.record = _
      rw [startBind_by hw' hc, State.slot_setSlot, hq',
        startOpenedBy_setSlot (overwrites_restBare i) s q]
      exact startOpenedBy_congr hag s _ c

/-! ### The end of a slot's event (R32, R144, R150) -/

theorem queueAnswered_eq (s : State) (i : Slot) :
    (if s.device.guards = true then s.answerUnboundQueues i else s) = s.queueAnswered i := by
  unfold State.queueAnswered
  by_cases h : Guarding s
  · rw [if_pos ((guards_iff s).mpr h), if_pos h, answerUnboundQueues_eq]
  · rw [if_neg (fun x => h ((guards_iff s).mp x)), if_neg h]

theorem queues_of_queued {s : State} {i : Slot} (h : s.queued i = []) :
    s.queues i = { regular := [], priority := [] } := by
  unfold State.queued at h
  cases hx : s.queues i
  simp_all

/-- The end of an event answers nothing for a slot that has nothing queued. -/
theorem answerIfUnbound_empty {s : State} {i : Slot} {b : Bool} (h : s.queued i = []) :
    answerIfUnbound s i b = s := by
  unfold answerIfUnbound
  split
  · have hq := queues_of_queued h
    rw [answerUnboundQueues_eq, h]
    show State.setQueues { s with completions := s.completions ++ [], log := s.log } i { regular := [], priority := [] } = s
    rw [List.append_nil, ← hq]
    unfold State.setQueues State.queues
    simp
  · rfl

theorem answerIfUnbound_eq (s : State) (i : Slot) (was : Bool) :
    answerIfUnbound s i was =
      if was = true ∨ (s.slot i).state = .unbound then s.queueAnswered i else s := by
  unfold answerIfUnbound
  rw [← queueAnswered_eq]
  by_cases h1 : s.device.guards = true <;>
    by_cases h2 : was = true ∨ (s.slot i).state = .unbound <;> simp [h1, h2]

/-- An event with no force to take and a slot that is not UNBOUND ends with it. -/
theorem conclude_same {t : State} (h : takeForce t i = t) (hs : (t.slot i).state ≠ .unbound) :
    conclude t i = t := by
  unfold conclude
  rw [h, answerIfUnbound_eq, if_neg (by simp [hs])]

/-- The end of an event of one slot in STARTING leaves the state as it is. -/
theorem conclude_starting {s : State} (h : s.device = .starting) (i : Slot) : conclude s i = s := by
  unfold conclude
  rw [takeForce_idle (by rw [h]; simp)]
  unfold answerIfUnbound
  rw [if_neg (by rw [h]; simp [DeviceState.guards])]

/-- An event that leaves its slot in a later stage of a switch ends with it. -/
theorem conclude_later {t : State} (h : InLaterStage (t.slot i).state) : conclude t i = t := by
  have h1 : takeForce t i = t := by
    apply takeForce_not
    intro f _ hm
    unfold InLaterStage at h
    rcases hm with hm | ⟨hm, -⟩ | ⟨hm, -⟩ <;> rw [hm] at h <;> simp at h
  have h2 : (t.slot i).state ≠ .unbound := by
    intro hm; rw [hm] at h; simp [InLaterStage] at h
  exact conclude_same h1 h2

/-- The slot of an ended switch at the end of the event. -/
theorem conclude_restBare {s : State} {r : SlotRecord} (hrt : s.root ≠ none ∨ r.pendingForce = none)
    (hw : r.switch = none) (hs : r.state = .active ∨ r.state = .unbound) :
    conclude (s.restBare i r) i = s.comesToRest i r := by
  have hcon : ∀ t : State, conclude t i =
      if (t.slot i).state = .unbound ∨ ((takeForce t i).slot i).state = .unbound then
        (takeForce t i).queueAnswered i
      else takeForce t i := by
    intro t
    unfold conclude
    rw [answerIfUnbound_eq]
    simp
  unfold State.comesToRest
  by_cases hd : r.disableReq = true
  · rw [if_pos hd]
    have e : s.restBare i r = s.turnedOff i r := by
      unfold State.restBare comeToRest
      rw [State.slot_setSlot, if_pos hd]
      unfold completeDisable State.turnedOff
      rw [State.slot_setSlot]
      exact State.setSlot_setSlot
        { s with cache := s.withoutCommitted i, map := s.withoutBound i } i _ _
    have hoff : ((s.turnedOff i r).slot i).state = .off := by
      unfold State.turnedOff; rw [State.slot_setSlot]
    rw [e, hcon, takeForce_not (s := s.turnedOff i r)]
    · rw [if_neg (by rw [hoff]; simp)]
    · intro f _ hm
      rcases hm with hm | ⟨hm, -⟩ | ⟨hm, -⟩ <;> rw [hoff] at hm <;> simp at hm
  · rw [if_neg hd]
    have hd' : r.disableReq = false := by simpa using hd
    have plain : (r.state = .unbound → ∀ g, r.pendingForce ≠ some (.call g)) →
        s.restBare i r = s.setSlot i r := by
      intro h
      unfold State.restBare comeToRest
      rw [State.slot_setSlot, if_neg hd]
      by_cases hu : r.state = .unbound
      · rw [if_pos hu]
        cases hp : r.pendingForce with
        | none => rfl
        | some f =>
          cases f with
          | call g => exact absurd hp (h hu g)
          | rebind => rfl
      · rw [if_neg hu]
    have hst : ((s.setSlot i r).slot i).state = r.state := by rw [State.slot_setSlot]
    cases hp : r.pendingForce with
    | none =>
      have hpt : s.pendingTaken i r = s.setSlot i r := by unfold State.pendingTaken; rw [hp]
      rw [plain (by simp [hp]), hcon, takeForce_of_none (by rw [State.slot_setSlot]; exact hp), hst,
        hpt, hst]
    | some f =>
      have hrt' : s.root ≠ none := hrt.resolve_right (by simp [hp])
      have taken : MayTake r f →
          takeForce (s.setSlot i r) i =
            if s.device = .running then s.forceStarts i { r with pendingForce := none } f
            else s.setSlot i r := by
        intro hm
        by_cases hr : s.device = .running
        · rw [if_pos hr, takeForce_rests hrt' hr hp hm hw hd']
        · rw [if_neg hr]
          unfold takeForce
          simp only [State.slot_setSlot, hp]
          rw [if_neg (fun h => hr h.1)]
      by_cases hu : r.state = .unbound
      · cases f with
        | call g =>
          have e : s.restBare i r = s.pendingTaken i r := by
            unfold State.restBare comeToRest State.pendingTaken
            rw [State.slot_setSlot, if_neg hd, if_pos hu]
            simp only [hp, hu, if_true]
            unfold State.endForce
            rw [State.slot_setSlot, State.setSlot_setSlot, State.setSlot_setSlot]
            rfl
          have hsl : ((s.pendingTaken i r).slot i).pendingForce = none ∧
              ((s.pendingTaken i r).slot i).state = .unbound := by
            unfold State.pendingTaken
            simp only [hp, hu, if_true]
            rw [State.slot_setSlot]
            exact ⟨rfl, rfl⟩
          rw [e, hcon, takeForce_of_none hsl.1, if_pos (Or.inl hsl.2), if_pos (Or.inl hu)]
        | rebind =>
          have hpt : s.pendingTaken i r = takeForce (s.setSlot i r) i := by
            rw [taken (Or.inr (Or.inl ⟨hu, rfl⟩))]
            unfold State.pendingTaken
            rw [hp]
          rw [plain (by simp [hp]), hcon, hpt, hst]
      · have ha : r.state = .active := hs.resolve_right hu
        have hpt : s.pendingTaken i r = takeForce (s.setSlot i r) i := by
          rw [taken (Or.inl ha)]
          unfold State.pendingTaken
          rw [hp]
          cases f with
          | call g => simp only [hu, if_false]
          | rebind => rfl
        rw [plain (fun h => absurd h hu), hcon, hpt, hst]

theorem endsIn_rests (sw : SwitchRec) : sw.endsIn = .active ∨ sw.endsIn = .unbound := by
  unfold SwitchRec.endsIn
  split
  · exact Or.inr rfl
  · exact Or.inl rfl

theorem conclude_closingWith (s : State) (i : Slot) (r : SlotRecord) (sw : SwitchRec) (o : TableOp) :
    conclude (s.closingWith i r sw o) i = s.closingWith i r sw o := by
  refine conclude_later ?_
  unfold State.closingWith
  rw [State.slot_setSlot]
  simp [InLaterStage]

theorem conclude_switchEndsBy {s : State} {r : SlotRecord}
    (h : s.root ≠ none ∨ r.pendingForce = none) (sw : SwitchRec) :
    conclude (s.switchEndsBy State.restBare i r sw) i = s.switchEnds i r sw := by
  unfold State.switchEnds State.switchEndsBy
  split <;> exact conclude_restBare h rfl (endsIn_rests sw)

theorem conclude_resultOrEndBy {s : State} {r : SlotRecord}
    (h : s.root ≠ none ∨ r.pendingForce = none) (sw : SwitchRec) :
    conclude (s.resultOrEndBy State.restBare i r sw) i = s.resultOrEnd i r sw := by
  unfold State.resultOrEnd State.resultOrEndBy
  split
  · exact conclude_closingWith ..
  · exact conclude_closingWith ..
  · exact conclude_switchEndsBy h sw

theorem conclude_switchFailedBy {s : State} {r : SlotRecord}
    (h : s.root ≠ none ∨ r.pendingForce = none) (sw : SwitchRec)
    (c : ResultCode) :
    conclude (s.switchFailedBy State.restBare i r sw c) i =
      s.switchFailedBy State.comesToRest i r sw c :=
  conclude_resultOrEndBy (s := { s with
      cache := s.withoutStaged i, map := s.withoutReserved i
      log := s.log.join (switchFault i r sw c) }) h _

theorem conclude_loadOpenedBy {s : State} {r : SlotRecord}
    (h : s.root ≠ none ∨ r.pendingForce = none) (sw : SwitchRec)
    (a : Addr) :
    conclude (s.loadOpenedBy State.restBare i r sw a) i =
      s.loadOpenedBy State.comesToRest i r sw a := by
  unfold State.loadOpenedBy
  split
  · exact conclude_switchFailedBy h _ _
  · split
    · exact conclude_switchFailedBy h _ _
    · refine conclude_later ?_
      rw [State.slot_setSlot]
      dsimp only
      split <;> simp [InLaterStage]

theorem conclude_callOpenedBy {s : State} {r : SlotRecord}
    (h : s.root ≠ none ∨ r.pendingForce = none) (sw : SwitchRec)
    (c : RootCopy) (g : GateRef) :
    conclude (s.callOpenedBy State.restBare i r sw c g) i =
      s.callOpenedBy State.comesToRest i r sw c g := by
  unfold State.callOpenedBy
  split
  · exact conclude_switchFailedBy h _ _
  · refine conclude_later ?_
    rw [State.slot_setSlot]
    simp [InLaterStage]

theorem conclude_startOpenedBy {s : State} {r : SlotRecord}
    (h : s.root ≠ none ∨ r.pendingForce = none) (sw : SwitchRec)
    (c : RootCopy) :
    conclude (s.startOpenedBy State.restBare i r sw c) i =
      s.startOpenedBy State.comesToRest i r sw c := by
  unfold State.startOpenedBy
  dsimp only
  have h' : ({ s with cache := s.withoutCommitted i, map := s.withoutBound i } : State).root ≠ none ∨
      ({ r with binding := none, stack := [] } : SlotRecord).pendingForce = none := h
  split
  · exact conclude_switchFailedBy h' _ _
  · exact conclude_loadOpenedBy h' _ _

/-! ### The events of a switch -/

/-- An event that ends in the failure of a switch. -/
theorem conclude_failSwitch {s : State} {sw : SwitchRec} {c : ResultCode}
    (h : s.root ≠ none ∨ (s.slot i).pendingForce = none)
    (hw : (s.slot i).switch = some sw) (hc : c ≠ .done) :
    conclude (failSwitch s i c) i = s.switchFailed i sw c := by
  rw [failSwitch_by hw hc]
  exact conclude_switchFailedBy h sw c

/-- It does not read the state and the switch record that the slot held. -/
theorem conclude_failSwitch_of {s : State} {r : SlotRecord} {sw : SwitchRec} {c : ResultCode}
    (h : s.root ≠ none ∨ (s.slot i).pendingForce = none)
    (hr : r = { s.slot i with state := r.state, switch := some sw }) (hc : c ≠ .done) :
    conclude (failSwitch (s.setSlot i r) i c) i = s.switchFailed i sw c := by
  rw [failSwitch_by (sw := sw) (by rw [State.slot_setSlot, hr]) hc, State.slot_setSlot, hr,
    switchFailedBy_setSlot (overwrites_restBare i)]
  exact conclude_switchFailedBy h sw c

theorem conclude_beginLoad {s : State}
    (h : s.root ≠ none ∨ (s.slot i).pendingForce = none) (sw : SwitchRec) (a : Addr) :
    conclude (beginLoad s i sw a) i = s.loadOpened i sw a := by
  rw [beginLoad_by]
  exact conclude_loadOpenedBy h sw a

theorem conclude_startBind {s : State} {sw : SwitchRec} {c : RootCopy}
    (hw : (s.slot i).switch = some sw) (hc : s.root = some c) :
    conclude (startBind s i sw) i = s.startOpened i sw c := by
  rw [startBind_by hw hc]
  exact conclude_startOpenedBy (Or.inl (by simp [hc])) sw c

theorem conclude_resolved {s : State} {sw : SwitchRec} {b : Binding}
    (h : s.root ≠ none ∨ (s.slot i).pendingForce = none)
    (hb : (s.slot i).binding = some b) (a : Addr) (l : Level) (tr : Bool) :
    conclude (resolved s i sw a l tr) i = s.resolvedTo i sw b a l tr := by
  unfold resolved State.resolvedTo
  dsimp only
  rw [hb]
  dsimp only
  have hs : (sw.kind.saves && b.keep) = true ↔
      (sw.kind = .call ∨ sw.kind = .ret) ∧ b.keep = true := by
    cases sw.kind <;> simp [SwitchKind.saves]
  by_cases hc : (sw.kind = .call ∨ sw.kind = .ret) ∧ b.keep = true
  · rw [if_pos hc, if_pos (hs.mpr hc)]
    have e : beginSaving (s.setSwitch i
        (some { sw with target := some a, level := some l, transfer := tr })) i b =
        State.setSlot { s with tfu := { s.tfu with queue := s.tfu.queue ++ [savedOp i b] } } i
          { s.slot i with
            state := .saving
            switch := some { sw with target := some a, level := some l, transfer := tr } } := by
      unfold beginSaving State.setSlotState State.setSwitch
      simp only [State.slot_setSlot, State.setSlot_setSlot, hb]
      rfl
    rw [e]
    rw [conclude_later (by rw [State.slot_setSlot]; simp [InLaterStage]), ← hb]
  · rw [if_neg hc, if_neg (fun x => hc (hs.mp x)), beginLoad_by]
    unfold State.setSwitch
    rw [State.slot_setSlot,
      loadOpenedBy_setSlot (overwrites_restBare i) s (s.slot i) _ (s.slot i).state]
    have := conclude_loadOpenedBy h { sw with level := some l, transfer := tr } a (i := i)
    exact this

/-- The commit of a switch of any kind and origin. -/
theorem conclude_commit {s : State} {sw : SwitchRec} {l : Loaded} {a : Addr}
    (h : s.root ≠ none ∨ (s.slot i).pendingForce = none)
    (hl : sw.loaded = some l) (ha : sw.target = some a) :
    conclude (commit s i sw l a) i =
      State.afterCommit
        { s with
          cache := s.cacheCommitted i, map := mapAfter s.map i sw (s.slot i).stack.length } i
        { s.slot i with
          binding := if sw.kind = .reload then (s.slot i).binding else some (s.newBinding sw l a)
          stack := stackAfter (s.slot i) sw, held := false } sw a l := by
  rw [commit_close hl ha]
  dsimp only
  have h' : ({ s with
      cache := s.cacheCommitted i
      map := mapAfter s.map i sw (s.slot i).stack.length } : State).root ≠ none ∨
      ({ s.slot i with
        binding := if sw.kind = .reload then (s.slot i).binding else some (s.newBinding sw l a)
        stack := stackAfter (s.slot i) sw, held := false } : SlotRecord).pendingForce = none := h
  unfold State.afterCommit
  split
  · exact conclude_closingWith ..
  · exact conclude_resultOrEndBy h' _

theorem conclude_closeResult {s : State} {sw : SwitchRec}
    (h : s.root ≠ none ∨ (s.slot i).pendingForce = none)
    (hw : (s.slot i).switch = some sw) :
    conclude (closeResult s i sw) i = s.resultOrEnd i (s.slot i) sw := by
  rw [closeResult_by hw]
  exact conclude_resultOrEndBy h sw

theorem conclude_leaveSwitch {s : State}
    (h : s.root ≠ none ∨ (s.slot i).pendingForce = none) (sw : SwitchRec) :
    conclude (leaveSwitch s i sw) i = s.switchEnds i (s.slot i) sw := by
  rw [leaveSwitch_by]
  exact conclude_switchEndsBy h sw

/-! ### The device moves on (R158, R169) -/

theorem foldl_entry (s : State) :
    (List.finRange 16).foldl answerUnboundSlot s =
      { s with
        intake := Vector.ofFn fun i : Slot =>
          if (s.slot i).state = .unbound then { regular := [], priority := [] } else s.queues i
        completions := s.completions ++ (List.finRange 16).flatMap fun i =>
          if (s.slot i).state = .unbound then (s.queued i).map unsupported else []
        log := ((List.finRange 16).flatMap fun i =>
          if (s.slot i).state = .unbound then (s.queued i).map unboundFault else []).foldl
            FaultLog.join s.log } := by
  obtain ⟨h1, h2⟩ := foldl_answerUnboundSlot (List.finRange 16) (List.nodup_finRange 16) s
  have g : ∀ (f : Request → Completion) (i : Slot), (s.unboundQueued i).map f =
      if (s.slot i).state = .unbound then (s.queued i).map f else [] := by
    intro f i; unfold State.unboundQueued; split <;> simp
  have g' : ∀ i : Slot, (s.unboundQueued i).map unboundFault =
      if (s.slot i).state = .unbound then (s.queued i).map unboundFault else [] := by
    intro i; unfold State.unboundQueued; split <;> simp
  have hi : ((List.finRange 16).foldl answerUnboundSlot s).intake =
      Vector.ofFn fun i : Slot =>
        if (s.slot i).state = .unbound then { regular := [], priority := [] } else s.queues i := by
    apply Vector.ext
    intro k hk
    have hm : (⟨k, hk⟩ : Slot) ∈ List.finRange 16 := List.mem_finRange _
    have hq := h2 ⟨k, hk⟩
    rw [Vector.getElem_ofFn]
    by_cases hu : (s.slot ⟨k, hk⟩).state = .unbound
    · rw [if_pos ⟨hm, hu⟩] at hq
      rw [if_pos hu]
      exact hq
    · rw [if_neg (fun h => hu h.2)] at hq
      rw [if_neg hu]
      exact hq
  rw [h1, hi]
  simp only [g, g']

theorem enterRunning_eq (s : State) : enterRunning s = s.entersRunning := by
  unfold enterRunning allSlots
  rw [foldl_entry]
  rfl

theorem deviceProgress_eq (s : State) : deviceProgress s = s.movesOn := by
  have h1 : s.startEnds = true ↔ s.device = .starting ∧ s.root ≠ none ∧
      ∀ i : Slot, (s.slot i).switch.map (·.origin) ≠ some .bind := by
    unfold State.startEnds SlotRecord.booting allSlots
    simp only [Bool.and_eq_true, decide_eq_true_eq, List.all_eq_true, List.mem_finRange,
      true_implies, and_assoc]
    refine and_congr Iff.rfl (and_congr (by cases s.root <;> simp) (forall_congr' fun i => ?_))
    cases (s.slot i).switch <;> simp
  have h2 : s.quiesceEnds = true ↔ s.device = .quiescing ∧ s.tracker = [] ∧ s.tfu.queue = [] ∧
      s.tfu.inFlight = none ∧ ∀ i : Slot, (s.slot i).switch = none := by
    unfold State.quiesceEnds Tfu.idle allSlots
    simp only [Bool.and_eq_true, decide_eq_true_eq, List.all_eq_true, List.mem_finRange,
      true_implies, and_assoc, List.isEmpty_iff, Option.isNone_iff_eq_none]
  unfold deviceProgress State.movesOn
  rw [enterRunning_eq]
  exact if_congr h1 rfl (if_congr h2 rfl rfl)

end Sys2Proof.Machine
end

