-- ==== Sys2Proof/Laws/Fetch.lean ====
section
/-! SUPPORT. Each slot's part of the table fetch unit and of the window cache (R20, R131): an operation of the switch engine that starts with no table operation of its slot queues at most one, in a stage that makes one, and keeps the slot's lists within 32 entries. -/

namespace Sys2Proof.Machine

/-- A slot with no table operation in the TFU, its lists within their limit. -/
structure FetchIdle (s : State) (i : Slot) : Prop where
  none : s.slotOps i = []
  staged : s.stagedCount i ≤ 32
  committed : s.committedCount i ≤ 32

theorem FetchIdle.sound {s : State} {i : Slot} (h : FetchIdle s i) : SlotFetch s i :=
  ⟨by simp [h.none], fun _ => h.none, h.staged, h.committed, by simp [h.none]⟩

theorem SlotFetch.idle {s : State} {i : Slot} (h : SlotFetch s i)
    (hr : (s.slot i).state = .off ∨ (s.slot i).state = .unbound ∨ (s.slot i).state = .active ∨
      (s.slot i).state = .draining) : FetchIdle s i :=
  ⟨h.atRest hr, h.staged, h.committed⟩

theorem slotOps_of {s t : State} (ht : t.tfu = s.tfu) (i : Slot) : t.slotOps i = s.slotOps i := by
  unfold State.slotOps
  rw [ht]

theorem stagedCount_of {s t : State} (hc : t.cache = s.cache) (i : Slot) :
    t.stagedCount i = s.stagedCount i := by
  unfold State.stagedCount
  rw [hc]

theorem committedCount_of {s t : State} (hc : t.cache = s.cache) (i : Slot) :
    t.committedCount i = s.committedCount i := by
  unfold State.committedCount
  rw [hc]

/-- What leaves the TFU and the window cache alone keeps a slot idle. -/
theorem FetchIdle.of {s t : State} {i : Slot} (h : FetchIdle s i) (ht : t.tfu = s.tfu)
    (hc : t.cache = s.cache) : FetchIdle t i :=
  ⟨(slotOps_of ht i).trans h.none, (stagedCount_of hc i).le.trans h.staged,
    (committedCount_of hc i).le.trans h.committed⟩

/-- What leaves the TFU, the window cache and the slot's state and switch record alone keeps its part. -/
theorem SlotFetch.of {s t : State} {i : Slot} (h : SlotFetch s i) (ht : t.tfu = s.tfu)
    (hc : t.cache = s.cache) (hs : (t.slot i).state = (s.slot i).state)
    (hw : (t.slot i).switch = (s.slot i).switch) : SlotFetch t i where
  one := by rw [slotOps_of ht]; exact h.one
  atRest := by rw [slotOps_of ht, hs]; exact h.atRest
  staged := by rw [stagedCount_of hc]; exact h.staged
  committed := by rw [committedCount_of hc]; exact h.committed
  room := by rw [slotOps_of ht, stagedCount_of hc, hw]; exact h.room

/-- A claim changes the binding map alone (R112). -/
theorem claim_eq {s t : State} {a : Addr} {i : Slot} (h : s.claim a i = some t) :
    t = { s with map := t.map } := by
  unfold State.claim at h
  split at h
  · exact absurd h (by simp)
  · split at h
    · exact absurd h (by simp)
    · obtain rfl := Option.some.inj h
      rfl

/-! ### What keeps a slot idle -/

namespace FetchIdle

theorem setSlot {s : State} {i : Slot} (h : FetchIdle s i) (j : Slot) (r : SlotRecord) :
    FetchIdle (s.setSlot j r) i := h.of rfl rfl

theorem setSlotState {s : State} {i : Slot} (h : FetchIdle s i) (j : Slot) (st : SlotState) :
    FetchIdle (s.setSlotState j st) i := h.of rfl rfl

theorem setSwitch {s : State} {i : Slot} (h : FetchIdle s i) (j : Slot) (sw : Option SwitchRec) :
    FetchIdle (s.setSwitch j sw) i := h.of rfl rfl

theorem logFault {s : State} {i : Slot} (h : FetchIdle s i) (f : FaultRecord) :
    FetchIdle (s.logFault f) i := h.of rfl rfl

theorem endForce {s : State} {i : Slot} (h : FetchIdle s i) (j : Slot) (c : ResultCode) :
    FetchIdle (s.endForce j c) i := h.of rfl rfl

theorem unreserve {s : State} {i : Slot} (h : FetchIdle s i) (j : Slot) :
    FetchIdle (s.unreserve j) i := h.of rfl rfl

theorem dropEntries {s : State} {i : Slot} (h : FetchIdle s i) (j : Slot) :
    FetchIdle (s.dropEntries j) i := h.of rfl rfl

theorem claim {s t : State} {i j : Slot} {a : Addr} (h : FetchIdle s i) (hc : s.claim a j = some t) :
    FetchIdle t i := by
  rw [claim_eq hc]
  exact h.of rfl rfl

/-- Entries of the slot released or committed: each list holds no more than one of the two held. -/
theorem mapCache {s : State} {i : Slot} (h : FetchIdle s i) (f : CacheEntry → CacheEntry)
    (hs : ∀ e, (f e).isStaged i = true → e.isStaged i = true)
    (hc : (∀ e, (f e).isCommitted i = true → e.isCommitted i = true) ∨
      ∀ e, (f e).isCommitted i = true → e.isStaged i = true) :
    FetchIdle { s with cache := s.cache.map f } i where
  none := h.none
  staged := by
    rw [stagedCount_eq, countP_cache_map]
    exact (List.countP_mono_left fun e _ => hs e).trans (stagedCount_eq s i ▸ h.staged)
  committed := by
    rw [committedCount_eq, countP_cache_map]
    rcases hc with hc | hc
    · exact (List.countP_mono_left fun e _ => hc e).trans (committedCount_eq s i ▸ h.committed)
    · exact (List.countP_mono_left fun e _ => hc e).trans (stagedCount_eq s i ▸ h.staged)

theorem freeStaged {s : State} {i : Slot} (h : FetchIdle s i) (j : Slot) :
    FetchIdle (s.freeStaged j) i :=
  h.mapCache _ (fun e => by split <;> simp [CacheEntry.isStaged])
    (Or.inl fun e => by split <;> simp [CacheEntry.isCommitted])

theorem freeCommitted {s : State} {i : Slot} (h : FetchIdle s i) (j : Slot) :
    FetchIdle (s.freeCommitted j) i :=
  h.mapCache _ (fun e => by split <;> simp [CacheEntry.isStaged])
    (Or.inl fun e => by split <;> simp [CacheEntry.isCommitted])

theorem commitCache {s : State} {i : Slot} (h : FetchIdle s i) : FetchIdle (s.commitCache i) i :=
  h.mapCache _
    (fun e => by
      cases e with
      | free => simp [CacheEntry.isCommitted, CacheEntry.toCommitted]
      | staged k p w =>
        by_cases hk : k = i <;>
          simp [CacheEntry.isCommitted, CacheEntry.toCommitted, CacheEntry.isStaged, hk]
      | committed k p w =>
        by_cases hk : k = i <;>
          simp [CacheEntry.isCommitted, CacheEntry.toCommitted, CacheEntry.isStaged, hk])
    (Or.inr fun e => by
      cases e with
      | free => simp [CacheEntry.isCommitted, CacheEntry.toCommitted]
      | staged k p w =>
        by_cases hk : k = i <;>
          simp [CacheEntry.isCommitted, CacheEntry.toCommitted, CacheEntry.isStaged, hk]
      | committed k p w =>
        by_cases hk : k = i <;>
          simp [CacheEntry.isCommitted, CacheEntry.toCommitted, hk])

end FetchIdle

/-! ### A table operation queued -/

/-- The slot's operations once one joins the queue of a slot that had none. -/
theorem slotOps_queueTable {s : State} {i : Slot} {o : TableOp} (h : s.slotOps i = [])
    (ho : o.owner = some i) : (s.queueTable o).slotOps i = [o] := by
  unfold State.slotOps at h ⊢
  rw [List.filter_append, List.append_eq_nil_iff] at h
  show List.filter _ ((s.tfu.queue ++ [o]) ++ _) = _
  rw [List.filter_append, List.filter_append, h.1]
  show _ ++ List.filter _ (s.tfu.inFlight.map (·.operation)).toList = _
  rw [h.2]
  simp [ho]

/-- A stage that makes table operations (R132). -/
def SlotState.fetches (st : SlotState) : Prop :=
  st = .resolving ∨ st = .saving ∨ st = .loading ∨ st = .binding ∨ st = .closing

theorem SlotState.fetches_iff (st : SlotState) :
    st.fetches ↔ ¬(st = .off ∨ st = .unbound ∨ st = .active ∨ st = .draining) := by
  unfold SlotState.fetches
  cases st <;> simp

theorem FetchIdle.queue {s : State} {i : Slot} {o : TableOp} (h : FetchIdle s i)
    (ho : o.owner = some i) (hs : (s.slot i).state.fetches)
    (hr : o.what = .descriptorRead → ∃ sw c, (s.slot i).switch = some sw ∧ sw.cursor = some c ∧
      c.index < c.count ∧ s.stagedCount i + (c.count - c.index) ≤ 32) :
    SlotFetch (s.queueTable o) i where
  one := by simp [slotOps_queueTable h.none ho]
  atRest := fun hq => absurd hq ((SlotState.fetches_iff _).mp hs)
  staged := h.staged
  committed := h.committed
  room := by
    intro x hx
    rw [slotOps_queueTable h.none ho, List.mem_singleton] at hx
    subst hx
    exact hr

/-! ### The engine's operations -/

theorem completeDisable_idle {s : State} {i : Slot} (h : FetchIdle s i) :
    FetchIdle (completeDisable s i) i :=
  ((h.freeCommitted i).dropEntries i).setSlot i _

theorem comeToRest_idle {s : State} {i : Slot} (h : FetchIdle s i) : FetchIdle (comeToRest s i) i := by
  unfold comeToRest
  split
  · exact completeDisable_idle h
  · split
    · split
      · exact (h.setSlot i _).endForce i _
      · exact h
      · exact h
    · exact h

theorem reportForce_idle {s : State} {i : Slot} (h : FetchIdle s i) (sw : SwitchRec) :
    FetchIdle (reportForce s i sw) i := by
  unfold reportForce
  split
  · split
    · exact h.endForce i _
    · exact h
  · exact h

theorem leaveSwitch_idle {s : State} {i : Slot} (h : FetchIdle s i) (sw : SwitchRec) :
    FetchIdle (leaveSwitch s i sw) i :=
  comeToRest_idle (reportForce_idle (h.setSlot i _) sw)

theorem closeResult_fetch {s : State} {i : Slot} (h : FetchIdle s i) (sw : SwitchRec) :
    SlotFetch (closeResult s i sw) i := by
  unfold closeResult
  split
  · exact (h.setSlotState i _).queue rfl (by simp [SlotState.fetches, State.setSlotState]) (by simp [slotWrite])
  · exact (leaveSwitch_idle h sw).sound

theorem close_fetch {s : State} {i : Slot} (h : FetchIdle s i) (sw : SwitchRec) :
    SlotFetch (close s i sw) i := by
  unfold close
  split
  · exact (h.setSlotState i _).queue rfl (by simp [SlotState.fetches, State.setSlotState]) (by simp [slotWrite])
  · exact closeResult_fetch h sw

theorem failSwitch_fetch {s : State} {i : Slot} (h : FetchIdle s i) (c : ResultCode) :
    SlotFetch (failSwitch s i c) i := by
  unfold failSwitch
  split
  · exact h.sound
  · exact close_fetch ((((h.freeStaged i).unreserve i).setSwitch i _).logFault _) _

theorem commit_fetch {s : State} {i : Slot} (h : FetchIdle s i) (sw : SwitchRec) (l : Loaded)
    (a : Addr) : SlotFetch (commit s i sw l a) i := by
  unfold commit
  dsimp only
  refine close_fetch (FetchIdle.setSlot ?_ i _) _
  exact h.commitCache.of rfl rfl

theorem beginLoad_fetch {s : State} {i : Slot} (h : FetchIdle s i) (sw : SwitchRec) (a : Addr) :
    SlotFetch (beginLoad s i sw a) i := by
  have ht := (h.setSlotState i (if sw.kind = .bind then .binding else .loading)).setSwitch i
    (some { sw with target := some a })
  have hs : (((s.setSlotState i (if sw.kind = .bind then .binding else .loading)).setSwitch i
      (some { sw with target := some a })).slot i).state.fetches := by
    simp only [State.setSwitch, State.setSlotState, State.slot_setSlot]
    split <;> simp [SlotState.fetches]
  unfold beginLoad
  revert ht hs
  generalize (s.setSlotState i _).setSwitch i _ = t
  intro ht hs
  dsimp only
  split
  · exact failSwitch_fetch ht _
  · split
    · split
      · exact failSwitch_fetch ht _
      next u hu =>
        refine (ht.claim hu).queue rfl ?_ (by simp [slotRead])
        have hslot : u.slot i = t.slot i := by
          rw [claim_eq hu]
          rfl
        exact hslot ▸ hs
    · exact ht.queue rfl hs (by simp [slotRead])

theorem readHeader_fetch {s : State} {i : Slot} (h : FetchIdle s i) (hs : (s.slot i).state.fetches)
    (sw : SwitchRec) (n : Nat) : SlotFetch (readHeader s i sw n) i :=
  (h.setSwitch i _).queue rfl (by simpa [State.setSwitch] using hs) (by simp [slotRead])

theorem readDescriptor_fetch {s : State} {i : Slot} (h : FetchIdle s i)
    (hs : (s.slot i).state.fetches) (sw : SwitchRec) {c : ListCursor} (hc : c.index < c.count)
    (hr : s.stagedCount i + (c.count - c.index) ≤ 32) : SlotFetch (readDescriptor s i sw c) i := by
  unfold readDescriptor
  dsimp only
  split
  · exact failSwitch_fetch (h.setSwitch i _) _
  · exact (h.setSwitch i _).queue rfl (by simpa [State.setSwitch] using hs)
      fun _ => ⟨{ sw with cursor := some c }, c, by simp [State.setSwitch], rfl, hc, hr⟩

theorem recordLoaded_fetch {s : State} {i : Slot} (h : FetchIdle s i)
    (hs : (s.slot i).state.fetches) (sw : SwitchRec) (a : Addr) (data : List Byte) :
    SlotFetch (recordLoaded s i sw a data) i := by
  unfold recordLoaded
  dsimp only
  split
  · exact failSwitch_fetch h _
  · split
    · exact (h.setSwitch i _).queue rfl (by simpa [State.setSwitch] using hs) (by simp [slotRead])
    · exact readHeader_fetch h hs _ _

theorem headerLoaded_fetch {s : State} {i : Slot} (h : FetchIdle s i)
    (hs : (s.slot i).state.fetches) (sw : SwitchRec) (l : Loaded) (a : Addr) (c : ListCursor)
    (data : List Byte) : SlotFetch (headerLoaded s i sw l a c data) i := by
  unfold headerLoaded
  dsimp only
  split
  · exact commit_fetch h sw l a
  · split
    · exact failSwitch_fetch h _
    next hn hl =>
      refine readDescriptor_fetch h hs sw (Nat.pos_of_ne_zero hn) ?_
      simp only [Config.listLimit] at hl
      simp only
      omega

theorem descriptorLoaded_fetch {s : State} {i : Slot} (h : FetchIdle s i)
    (hs : (s.slot i).state.fetches) (sw : SwitchRec) {c : ListCursor} (hc : c.index < c.count)
    (hr : s.stagedCount i + (c.count - c.index) ≤ 32) (data : List Byte) :
    SlotFetch (descriptorLoaded s i sw c data) i := by
  unfold descriptorLoaded
  split
  · exact failSwitch_fetch h _
  next w _ =>
    split
    · exact failSwitch_fetch h _
    next t ht =>
      obtain ⟨hi, hslot, hcount⟩ : FetchIdle t i ∧ t.slot i = s.slot i ∧
          t.stagedCount i = s.stagedCount i + 1 := by
        unfold State.stage at ht
        split at ht
        · exact absurd ht (by simp)
        next k hk =>
          obtain rfl := Option.some.inj ht
          have hl := stage_lists (i := i) (w := w) hk i
          rw [if_pos rfl] at hl
          exact ⟨⟨h.none, by rw [hl.1]; omega, by rw [hl.2]; exact h.committed⟩, rfl, hl.1⟩
      have hst : (t.slot i).state.fetches := hslot ▸ hs
      split
      · refine readDescriptor_fetch hi hst sw ‹_› ?_
        rw [hcount]
        simp only
        omega
      · exact readHeader_fetch hi hst sw _

theorem resolved_fetch {s : State} {i : Slot} (h : FetchIdle s i) (sw : SwitchRec) (a : Addr)
    (l : Level) (transfer : Bool) : SlotFetch (resolved s i sw a l transfer) i := by
  unfold resolved
  dsimp only
  split
  · split
    · exact ((h.setSwitch i _).setSlotState i _).queue rfl
        (by simp [SlotState.fetches, State.setSlotState]) (by simp [slotWrite])
    · exact beginLoad_fetch (h.setSwitch i _) _ _
  · exact beginLoad_fetch (h.setSwitch i _) _ _

theorem resolve_fetch {s : State} {i : Slot} (h : FetchIdle s i) (sw : SwitchRec) :
    SlotFetch (resolve s i sw) i := by
  have ht := h.setSlotState i .resolving
  unfold resolve
  dsimp only
  split
  · split
    · unfold resolveCall
      split
      · exact failSwitch_fetch ht _
      · exact ht.queue rfl (by simp [SlotState.fetches, State.setSlotState]) (by simp [slotRead])
    · exact ht.sound
  · split
    · exact failSwitch_fetch ht _
    · exact resolved_fetch ht _ _ _ _
  · split
    · exact resolved_fetch ht _ _ _ _
    · exact ht.sound
  · exact failSwitch_fetch ht _
  · exact ht.sound
  · exact ht.sound

theorem directoryLoaded_fetch {s : State} {i : Slot} (h : FetchIdle s i)
    (hs : (s.slot i).state.fetches) (g : GateRef) (data : List Byte) :
    SlotFetch (directoryLoaded s i g data) i := by
  unfold directoryLoaded
  dsimp only
  split
  · exact failSwitch_fetch h _
  · exact h.queue rfl hs (by simp [slotRead])

theorem gateLoaded_fetch {s : State} {i : Slot} (h : FetchIdle s i) (sw : SwitchRec)
    (data : List Byte) : SlotFetch (gateLoaded s i sw data) i := by
  unfold gateLoaded
  dsimp only
  split
  · exact failSwitch_fetch h _
  · split
    · exact failSwitch_fetch h _
    · split
      · exact failSwitch_fetch h _
      · exact resolved_fetch h _ _ _ _

theorem startBind_fetch {s : State} {i : Slot} (h : FetchIdle s i) (sw : SwitchRec) :
    SlotFetch (startBind s i sw) i := by
  have ht := ((h.freeCommitted i).dropEntries i).setSlot i
    { s.slot i with binding := none, stack := [] }
  unfold startBind
  dsimp only
  split
  · exact failSwitch_fetch ht _
  · exact beginLoad_fetch ht _ _

theorem dropMailbox_fetch {s : State} {i : Slot} (h : FetchIdle s i) (sw : SwitchRec) :
    SlotFetch (dropMailbox s i sw) i :=
  (comeToRest_idle ((h.logFault _).setSlot i _)).sound

theorem afterDraining_fetch {s : State} {i : Slot} (h : FetchIdle s i) (sw : SwitchRec) :
    SlotFetch (afterDraining s i sw) i := by
  unfold afterDraining
  split
  · split
    · exact resolve_fetch h sw
    · exact dropMailbox_fetch h sw
    · exact h.sound
    · exact h.sound
  · split <;> first | exact resolve_fetch h sw | exact startBind_fetch h sw | exact h.sound
  · exact startBind_fetch (h.setSlotState i _) sw
  · exact h.sound

theorem endDraining_fetch {s : State} {i : Slot} (h : FetchIdle s i) :
    SlotFetch (endDraining s i) i := by
  unfold endDraining
  split
  · split
    · exact afterDraining_fetch h _
    · exact h.sound
  · exact h.sound

/-- The settlement of a slot's table operation, once it has left the TFU. -/
theorem slotOpSettled_fetch {s : State} {i : Slot} (h : FetchIdle s i) (w : TableWhat)
    (hr : w = .descriptorRead → ∃ sw c, (s.slot i).switch = some sw ∧ sw.cursor = some c ∧
      c.index < c.count ∧ s.stagedCount i + (c.count - c.index) ≤ 32) (res : Option (List Byte))
    (timedOut : Bool) : SlotFetch (slotOpSettled s i w res timedOut) i := by
  unfold slotOpSettled
  split
  · exact h.sound
  next sw hsw =>
    split
    next hst =>
      have hs : (s.slot i).state.fetches := by
        revert hst
        unfold SlotState.fetches
        cases w <;> simp [TableWhat.inStage] <;> tauto
      split
      next data =>
        unfold slotOpOk
        cases w with
        | rootRead => exact h.sound
        | directoryRead => dsimp only; split; exacts [directoryLoaded_fetch h hs _ _, h.sound]
        | gateRead => exact gateLoaded_fetch h sw data
        | savedWrite => dsimp only; split; exacts [beginLoad_fetch h _ _, h.sound]
        | recordRead => dsimp only; split; exacts [recordLoaded_fetch h hs _ _ _, h.sound]
        | extensionRead => dsimp only; split; exacts [readHeader_fetch h hs _ _, h.sound]
        | runHeaderRead => dsimp only; split; exacts [headerLoaded_fetch h hs _ _ _ _ _, h.sound]
        | descriptorRead =>
          obtain ⟨sw', c, h1, h2, h3, h4⟩ := hr rfl
          obtain rfl : sw = sw' := Option.some.inj (hsw.symm.trans h1)
          simp only [h2]
          exact descriptorLoaded_fetch h hs sw h3 h4 data
        | headerWrite => exact closeResult_fetch h sw
        | resultWrite => exact (leaveSwitch_idle h sw).sound
      · unfold slotOpFailed
        split
        case h_1 => exact h.sound
        case h_9 => exact closeResult_fetch (h.logFault _) sw
        case h_10 => exact (leaveSwitch_idle (h.logFault _) sw).sound
        all_goals exact failSwitch_fetch h _
    · exact h.sound

/-- A force is taken only from a slot that makes no table operation (R150). -/
theorem takeForce_fetch {s : State} {i : Slot} (h : SlotFetch s i) : SlotFetch (takeForce s i) i := by
  unfold takeForce
  dsimp only
  split
  · exact h
  next f _ =>
    split
    next ht =>
      have hq : (s.slot i).state = .off ∨ (s.slot i).state = .unbound ∨
          (s.slot i).state = .active ∨ (s.slot i).state = .draining := by
        have := ht.2
        unfold SlotRecord.takes at this
        split at this <;> simp_all
      exact endDraining_fetch ((h.idle hq).setSlot i _)
    · exact h

theorem answerUnboundQueues_fetch {s : State} {i : Slot} (h : SlotFetch s i) (j : Slot) :
    SlotFetch (s.answerUnboundQueues j) i := by
  have hf : ∀ (l : List Request) (u : State), SlotFetch u i → SlotFetch (l.foldl answerUnbound u) i := by
    intro l
    induction l with
    | nil => exact fun _ hu => hu
    | cons r l ih => exact fun u hu => ih _ (hu.of rfl rfl rfl rfl)
  exact (hf _ _ h).of rfl rfl rfl rfl

theorem conclude_fetch {s : State} {i : Slot} (h : SlotFetch s i) : SlotFetch (conclude s i) i := by
  unfold conclude answerIfUnbound
  split
  · exact answerUnboundQueues_fetch (takeForce_fetch h) i
  · exact takeForce_fetch h

end Sys2Proof.Machine
end

