-- ==== Sys2Proof/Laws/FetchSound.lean ====
section
/-! SUPPORT. The soundness of the TFU and the window cache (R20, R131) through every operation that a command is made of, one lemma each. -/

namespace Sys2Proof.Machine


theorem SlotFetch.of_frame {i j : Slot} {s t : State} (h : SlotFetch s j) (fr : EngineFrame i s t)
    (hj : j ≠ i) : SlotFetch t j := by
  have ho : t.slotOps j = s.slotOps j := by
    obtain ⟨ops, hq, hown⟩ := fr.tableOps
    unfold State.slotOps
    rw [hq, fr.inFlight, List.filter_append, List.filter_append, List.filter_append]
    have : ops.filter (fun o => decide (o.owner = some j)) = [] :=
      List.filter_eq_nil_iff.mpr fun o ho => by simp [hown o ho, Ne.symm hj]
    rw [this, List.append_nil]
  have hl := fr.otherLists j hj
  have hs := fr.otherSlots j hj
  exact ⟨by rw [ho]; exact h.one, by rw [ho, hs]; exact h.atRest, by rw [hl.1]; exact h.staged,
    by rw [hl.2]; exact h.committed, by rw [ho, hl.1, hs]; exact h.room⟩

theorem rootReads_of_frame {i : Slot} {s t : State} (fr : EngineFrame i s t) :
    t.rootReads = s.rootReads := by
  obtain ⟨ops, hq, hown⟩ := fr.tableOps
  unfold State.rootReads
  rw [hq, fr.inFlight, List.filter_append, List.filter_append, List.filter_append]
  have : ops.filter (fun o => o.owner.isNone) = [] :=
    List.filter_eq_nil_iff.mpr fun o ho => by simp [hown o ho]
  rw [this, List.append_nil]

/-- The device has no root copy yet: every slot is OFF or UNBOUND (R18). -/
def BeforeRootCopy (s : State) : Prop := s.device = .direct ∨ (s.device = .starting ∧ s.root = none)

/-- An operation of the switch engine for one slot. -/
theorem FetchSound.of_frame {i : Slot} {s t : State} (h : FetchSound s) (fr : EngineFrame i s t)
    (hi : SlotFetch t i)
    (hs : BeforeRootCopy s → (t.slot i).state = .off ∨ (t.slot i).state = .unbound) :
        FetchSound t where
  slots := fun j => by
    by_cases hj : j = i
    · rw [hj]; exact hi
    · exact (h.slots j).of_frame fr hj
  root := by rw [rootReads_of_frame fr, fr.device, fr.root, fr.tracker]; exact h.root
  start := fun hb j => by
    rw [fr.device, fr.root] at hb
    by_cases hj : j = i
    · rw [hj]; exact hs hb
    · rw [fr.otherSlots j hj]; exact h.start hb j

/-- What leaves the TFU, the window cache, every slot's state and switch record, the device state and the
root copy alone, and puts nothing into an empty tracker, keeps them sound. -/
theorem FetchSound.of {s t : State} (h : FetchSound s) (ht : t.tfu = s.tfu) (hc : t.cache = s.cache)
    (hs : ∀ i : Slot, (t.slot i).state = (s.slot i).state ∧ (t.slot i).switch = (s.slot i).switch)
    (hd : t.device = s.device) (hr : t.root = s.root) (hk : s.tracker = [] → t.tracker = []) :
    FetchSound t where
  slots := fun i => (h.slots i).of ht hc (hs i).1 (hs i).2
  root := by
    have : t.rootReads = s.rootReads := by unfold State.rootReads; rw [ht]
    rw [this, hd, hr]
    exact fun hx => ⟨(h.root hx).1, (h.root hx).2.1, (h.root hx).2.2.1, hk (h.root hx).2.2.2⟩
  start := fun hb i => by
    rw [hd, hr] at hb
    rw [(hs i).1]
    exact h.start hb i

theorem FetchSound.of_slots {s t : State} (h : FetchSound s) (ht : t.tfu = s.tfu)
    (hc : t.cache = s.cache)
    (hs : t.slots = s.slots)
    (hd : t.device = s.device) (hr : t.root = s.root) (hk : s.tracker = [] → t.tracker = []) :
    FetchSound t :=
  h.of ht hc (fun i => by unfold State.slot; rw [hs]; exact ⟨rfl, rfl⟩) hd hr hk

theorem fetchSound_finish {s t : State} (hs : FetchSound s) (h : finish s = .next t) :
    FetchSound t := by
  unfold finish at h
  obtain rfl := Host.Outcome.next.inj h
  exact hs.of_slots rfl rfl rfl rfl rfl id

theorem slotOps_of_before {s : State} (h : FetchSound s) (hb : BeforeRootCopy s) (i : Slot) :
    s.slotOps i = [] :=
  (h.slots i).atRest ((h.start hb i).elim Or.inl fun x => Or.inr (Or.inl x))

/-! ### The device state -/

theorem fetchSound_foldl {α : Type} {f : State → α → State}
    (hf : ∀ s a, FetchSound s → FetchSound (f s a)) :
    ∀ (l : List α) (s : State), FetchSound s → FetchSound (l.foldl f s) := by
  intro l
  induction l with
  | nil => exact fun _ h => h
  | cons a l ih => exact fun s h => ih _ (hf s a h)

theorem fetchSound_setSlot {s : State} (h : FetchSound s) (i : Slot) (r : SlotRecord)
    (h1 : r.state = (s.slot i).state) (h2 : r.switch = (s.slot i).switch) : FetchSound
        (s.setSlot i r) := by
  refine h.of rfl rfl (fun j => ?_) rfl rfl id
  by_cases hj : j = i
  · subst hj; rw [State.slot_setSlot]; exact ⟨h1, h2⟩
  · rw [State.slot_setSlot_ne _ _ hj]; exact ⟨rfl, rfl⟩

theorem slots_answerUnboundQueues (t : State) (i : Slot) :
    (t.answerUnboundQueues i).slots = t.slots := by
  unfold State.answerUnboundQueues
  have : ∀ (l : List Request) (u : State), (l.foldl answerUnbound u).slots = u.slots := by
    intro l
    induction l with
    | nil => exact fun _ => rfl
    | cons r l ih => exact fun u => (ih _).trans rfl
  exact this _ _

theorem fetchSound_answerUnboundQueues {s : State} (h : FetchSound s) (i : Slot) :
    FetchSound (s.answerUnboundQueues i) := by
  refine h.of_frame (EngineFrame.answerUnboundQueues s i)
    (answerUnboundQueues_fetch (h.slots i) i) fun hb => ?_
  unfold State.slot
  rw [slots_answerUnboundQueues]
  exact h.start hb i

theorem fetchSound_answerUnboundSlot {s : State} (h : FetchSound s) (i : Slot) :
    FetchSound (answerUnboundSlot s i) := by
  unfold answerUnboundSlot
  split
  · exact fetchSound_answerUnboundQueues h i
  · exact h

theorem fetchSound_answerIfUnbound {s : State} (h : FetchSound s) (i : Slot) (was : Bool) :
    FetchSound (answerIfUnbound s i was) := by
  unfold answerIfUnbound
  split
  · exact fetchSound_answerUnboundQueues h i
  · exact h

theorem fetchSound_enterRunning {s : State} (h : FetchSound s) (hr : s.root.isSome) :
    FetchSound (enterRunning s) := by
  have hroot : s.rootReads = [] := by
    by_contra hx
    have := (h.root hx).2.2.1
    simp [this] at hr
  have h0 : FetchSound (State.setSticky
      { s with
        device := .running
        startResult := .done
        timer := { s.timer with
          count := 0
          running := decide (s.epochLength ≠ 0) } } startDoneBit) :=
    { slots := fun i => (h.slots i).of rfl rfl rfl rfl
      root := fun hx => absurd hroot hx
      start := fun hb => by
        rcases hb with hb | hb
        · exact absurd hb (by simp [State.setSticky])
        · exact absurd hb.1 (by simp [State.setSticky]) }
  exact fetchSound_foldl (fun t i ht => fetchSound_answerUnboundSlot ht i) _ _ h0

theorem fetchSound_deviceProgress {s : State} (h : FetchSound s) : FetchSound (deviceProgress s) := by
  unfold deviceProgress
  split
  next hs =>
    simp only [State.startEnds, Bool.and_eq_true, decide_eq_true_iff] at hs
    exact fetchSound_enterRunning h hs.1.2
  · split
    next hq =>
      simp only [State.quiesceEnds, Bool.and_eq_true, decide_eq_true_iff] at hq
      exact
        { slots := fun i => (h.slots i).of rfl rfl rfl rfl
          root := fun hx => absurd ((h.root hx).2.1) (by rw [hq.1.1.1]; simp)
          start := fun hb => by
            rcases hb with hb | hb
            · exact absurd hb (by simp [enterQuiesced, State.setSticky])
            · exact absurd hb.1 (by simp [enterQuiesced, State.setSticky]) }
    · exact h

theorem fetchSound_takeForce {s : State} (h : FetchSound s) (i : Slot) :
    FetchSound (takeForce s i) := by
  refine h.of_frame (takeForce_frame s i) (takeForce_fetch (h.slots i)) fun hb => ?_
  have : takeForce s i = s := by
    unfold takeForce
    dsimp only
    split
    · rfl
    · rw [if_neg]
      rintro ⟨hr, _⟩
      rcases hb with hb | hb
      · exact absurd (hr.symm.trans hb) (by simp)
      · exact absurd (hr.symm.trans hb.1) (by simp)
  rw [this]
  exact h.start hb i

theorem fetchSound_conclude {s : State} (h : FetchSound s) (i : Slot) : FetchSound (conclude s i) :=
  fetchSound_answerIfUnbound (fetchSound_takeForce h i) i _

/-! ### The settlement of a granule -/

theorem fetchSound_queueRootRead {s : State} (h : FetchSound s) (hr : s.rootReads = []) :
    FetchSound (queueRootRead s) := by
  unfold queueRootRead
  split
  next hc =>
    have hb : BeforeRootCopy s := Or.inr ⟨hc.1, hc.2.1⟩
    have hops : ∀ i, (s.queueTable (rootRead s.rootAddr)).slotOps i = [] := by
      intro i
      have := slotOps_of_before h hb i
      unfold State.slotOps at this ⊢
      rw [List.filter_append, List.append_eq_nil_iff] at this
      show List.filter _ ((s.tfu.queue ++ [_]) ++ _) = _
      rw [List.filter_append, List.filter_append, this.1]
      show _ ++ List.filter _ (s.tfu.inFlight.map (·.operation)).toList = _
      rw [this.2]
      simp [rootRead]
    refine ⟨fun i => ⟨by simp [hops], fun _ => hops i, (h.slots i).staged,
        (h.slots i).committed, by simp [hops]⟩,
      fun _ => ⟨?_, hc.1, hc.2.1, hc.2.2⟩, fun _ => h.start hb⟩
    unfold State.rootReads at hr ⊢
    rw [List.filter_append, List.append_eq_nil_iff] at hr
    show (List.filter _ ((s.tfu.queue ++ [_]) ++ _)).length = 1
    rw [List.filter_append, List.filter_append, hr.1]
    show (_ ++ List.filter _ (s.tfu.inFlight.map (·.operation)).toList).length = 1
    rw [hr.2]
    rfl
  · exact h

theorem fetchSound_reportWatch {s : State} (h : FetchSound s) (e : TrackerEntry) (st : RespStatus) :
    FetchSound (reportWatch s e st) := by
  unfold reportWatch
  split
  · have hsw : ∀ sw : SwitchRec, (sw.report st).cursor = sw.cursor := by
      intro sw; unfold SwitchRec.report; split <;> rfl
    have he := h.slots e.slot
    refine h.of_frame
        (EngineFrame.setSwitch s e.slot _) ⟨he.one, ?_, he.staged, he.committed, ?_⟩ ?_
    · simp only [State.setSwitch, State.slot_setSlot]; exact he.atRest
    · intro o ho hw
      obtain ⟨sw, c, h1, h2, h3, h4⟩ := he.room o ho hw
      exact ⟨sw.report st, c, by simp [State.setSwitch, h1], (hsw sw).trans h2, h3, h4⟩
    · simp only [State.setSwitch, State.slot_setSlot]; exact fun hb => h.start hb e.slot
  · exact h

theorem endDraining_of_not {s : State} {i : Slot} (h : (s.slot i).state ≠ .draining) :
    endDraining s i = s := by
  unfold endDraining
  rw [if_neg]
  exact fun hx => h hx.1

theorem fetchSound_endDraining {s : State} (h : FetchSound s) (i : Slot) :
    FetchSound (endDraining s i) := by
  by_cases hd : (s.slot i).state = .draining
  · refine h.of_frame (endDraining_frame s i)
      (endDraining_fetch ((h.slots i).idle (by simp [hd]))) fun hb => ?_
    have := h.start hb i
    simp [hd] at this
  · rw [endDraining_of_not hd]
    exact h

theorem fetchSound_afterGranule {s : State} (h : FetchSound s) (hr : s.rootReads = []) (i : Slot) :
    FetchSound (afterGranule s i) := by
  unfold afterGranule
  refine fetchSound_deviceProgress (fetchSound_queueRootRead ?_ ?_)
  · split
    · exact fetchSound_conclude (fetchSound_endDraining h i) i
    · exact h
  · split
    · rw [rootReads_of_frame (conclude_frame _ i), rootReads_of_frame (endDraining_frame s i)]
      exact hr
    · exact hr

theorem settleRequest_same (s : State) (e : TrackerEntry) (x : Settlement) :
    (settleRequest s e x).tfu = s.tfu ∧ (settleRequest s e x).cache = s.cache ∧
      (settleRequest s e x).slots = s.slots ∧ (settleRequest s e x).device = s.device ∧
      (settleRequest s e x).root = s.root ∧ (settleRequest s e x).tracker = s.tracker := by
  unfold settleRequest putSettled
  split
  · split <;> exact ⟨rfl, rfl, rfl, rfl, rfl, rfl⟩
  · exact ⟨rfl, rfl, rfl, rfl, rfl, rfl⟩

theorem logSettlement_same (s : State) (e : TrackerEntry) (x : Settlement) :
    (logSettlement s e x).tfu = s.tfu ∧ (logSettlement s e x).cache = s.cache ∧
      (logSettlement s e x).slots = s.slots ∧ (logSettlement s e x).device = s.device ∧
      (logSettlement s e x).root = s.root ∧ (logSettlement s e x).tracker = s.tracker := by
  unfold logSettlement
  split <;> exact ⟨rfl, rfl, rfl, rfl, rfl, rfl⟩

theorem fetchSound_settleGranule {s : State} (h : FetchSound s) (p : MemPort) (id : IssueId)
    {e : TrackerEntry} (he : e ∈ s.tracker) (x : Settlement) : FetchSound (settleGranule s p id e x) := by
  have hr : s.rootReads = [] := by
    by_contra hx
    have := (h.root hx).2.2.2
    simp [this] at he
  unfold settleGranule
  have h1 := settleRequest_same (logSettlement (releaseGranule s p id x.idState) e x) e x
  have h2 := logSettlement_same (releaseGranule s p id x.idState) e x
  have h3 : (releaseGranule s p id x.idState).tfu = s.tfu ∧
      (releaseGranule s p id x.idState).cache = s.cache ∧
      (releaseGranule s p id x.idState).slots = s.slots ∧
      (releaseGranule s p id x.idState).device = s.device ∧
      (releaseGranule s p id x.idState).root = s.root := by cases p <;> exact ⟨rfl, rfl, rfl, rfl, rfl⟩
  have h0 : FetchSound
      ((settleRequest (logSettlement (releaseGranule s p id x.idState) e x) e x).spendFree
        (e.count - x.data.length)) := by
    refine h.of_slots (h1.1.trans (h2.1.trans h3.1)) (h1.2.1.trans (h2.2.1.trans h3.2.1))
      (h1.2.2.1.trans (h2.2.2.1.trans h3.2.2.1)) (h1.2.2.2.1.trans (h2.2.2.2.1.trans h3.2.2.2.1))
      (h1.2.2.2.2.1.trans (h2.2.2.2.2.1.trans h3.2.2.2.2)) fun hk => ?_
    simp [hk] at he
  refine fetchSound_afterGranule (fetchSound_reportWatch h0 e _) ?_ _
  have : (reportWatch ((settleRequest (logSettlement
      (releaseGranule s p id x.idState) e x) e x).spendFree
        (e.count - x.data.length)) e x.status).tfu = s.tfu := by
    unfold reportWatch
    split <;> exact h1.1.trans (h2.1.trans h3.1)
  unfold State.rootReads
  rw [this]
  exact hr

/-! ### The settlement of a table operation -/

/-- The TFU freed of its operation in flight. -/
theorem released_slotOps {s : State} {f : TfuFlight} (hf : s.tfu.inFlight = some f) (id : IssueId)
    (st : IdState) (n : Nat) (i : Slot) :
    s.slotOps i = ((releaseTable s id st).spendFree n).slotOps i ++
      (if f.operation.owner = some i then [f.operation] else []) := by
  unfold State.slotOps
  rw [hf, List.filter_append]
  show _ = List.filter _ (s.tfu.queue ++ []) ++ _
  rw [List.append_nil]
  congr 1
  by_cases ho : f.operation.owner = some i <;> simp [ho]

theorem fetchSound_startFailed {s : State} (h : FetchSound s) (hb : BeforeRootCopy s)
    (hr : s.rootReads = [])
    (c : StartResult) : FetchSound (startFailed s c) where
  slots := fun i => (h.slots i).of rfl rfl rfl rfl
  root := fun hx => absurd hr hx
  start := fun _ => h.start hb

theorem beginBoot_frame (s : State) (i : Slot) : EngineFrame i s (beginBoot s i) := by
  unfold beginBoot
  exact (EngineFrame.setSlot s i _).trans (startBind_frame _ i _)

theorem fetchSound_foldl_beginBoot : ∀ (l : List Slot) (s : State), l.Nodup →
    FetchSound s → s.root.isSome →
    s.device ≠ .direct → (∀ i ∈ l, FetchIdle s i) → FetchSound (l.foldl beginBoot s) := by
  intro l
  induction l with
  | nil => exact fun s _ h _ _ _ => h
  | cons i l ih =>
    intro s hnd h hr hd hi
    have hfr := beginBoot_frame s i
    rw [List.nodup_cons] at hnd
    refine ih _ hnd.2 ?_ (by rw [hfr.root]; exact hr) (by rw [hfr.device]; exact hd) ?_
    · refine h.of_frame hfr ?_ fun hb => ?_
      · unfold beginBoot
        exact startBind_fetch ((hi i (by simp)).setSlot i _) _
      · rcases hb with hb | hb
        · exact absurd hb hd
        · simp [hb.2] at hr
    · intro j hj
      have hji : j ≠ i := fun hx => hnd.1 (hx ▸ hj)
      have h1 := hi j (by simp [hj])
      obtain ⟨ops, hq, hown⟩ := hfr.tableOps
      refine ⟨?_, (hfr.otherLists j hji).1.le.trans h1.staged,
          (hfr.otherLists j hji).2.le.trans h1.committed⟩
      have := h1.none
      unfold State.slotOps at this ⊢
      rw [hq, hfr.inFlight, List.filter_append, List.filter_append]
      rw [List.filter_append, List.append_eq_nil_iff] at this
      rw [this.1, this.2]
      simp only [List.nil_append, List.append_nil]
      exact List.filter_eq_nil_iff.mpr fun o ho => by simp [hown o ho, Ne.symm hji]

theorem fetchSound_rootSettled {s : State} (h : FetchSound s) (hs : s.device = .starting)
    (hn : s.root = none)
    (hr : s.rootReads = []) (res : Option (List Byte)) : FetchSound (rootSettled s res) := by
  have hb : BeforeRootCopy s := Or.inr ⟨hs, hn⟩
  unfold rootSettled
  split
  · exact fetchSound_startFailed h hb hr _
  next data =>
    split
    · unfold startPassed
      dsimp only
      refine fetchSound_foldl_beginBoot _ _ ?_ ?_ rfl (by simp [State.spendFree, hs]) ?_
      · exact ((freeOrder_perm _ _).nodup_iff).mpr ((List.nodup_finRange 16).filter _)
      · exact ⟨fun i => (h.slots i).of rfl rfl rfl rfl, fun hx => absurd hr hx, fun hx => by
          rcases hx with hx | hx
          · exact absurd (hs.symm.trans hx) (by simp)
          · exact absurd hx.2 (by simp [State.spendFree])⟩
      · intro i _
        exact ((h.slots i).idle ((h.start hb i).elim Or.inl fun x => Or.inr (Or.inl x))).of rfl rfl
    · exact fetchSound_startFailed h hb hr _

theorem fetchSound_settleTable {s : State} (h : FetchSound s) {f : TfuFlight}
    (hf : s.tfu.inFlight = some f)
    (x : Settlement) : FetchSound (settleTable s f x) := by
  unfold settleTable
  refine fetchSound_deviceProgress ?_
  have hops := released_slotOps hf f.flight.id x.idState (f.operation.length - x.data.length)
  have hroots : s.rootReads = ((releaseTable s f.flight.id x.idState).spendFree
      (f.operation.length - x.data.length)).rootReads ++
      (if f.operation.owner = none then [f.operation] else []) := by
    unfold State.rootReads
    rw [hf, List.filter_append]
    show _ = List.filter _ (s.tfu.queue ++ []) ++ _
    rw [List.append_nil]
    congr 1
    cases ho : f.operation.owner <;> simp [ho]
  revert hops hroots
  have hd : ((releaseTable s f.flight.id x.idState).spendFree
      (f.operation.length - x.data.length)).device = s.device := rfl
  have hrt : ((releaseTable s f.flight.id x.idState).spendFree
      (f.operation.length - x.data.length)).root = s.root := rfl
  have htr : ((releaseTable s f.flight.id x.idState).spendFree
      (f.operation.length - x.data.length)).tracker = s.tracker := rfl
  have hsl : ((releaseTable s f.flight.id x.idState).spendFree
      (f.operation.length - x.data.length)).slots = s.slots := rfl
  have hca : ((releaseTable s f.flight.id x.idState).spendFree
      (f.operation.length - x.data.length)).cache = s.cache := rfl
  revert hd hrt htr hsl hca
  generalize (releaseTable s f.flight.id x.idState).spendFree
      (f.operation.length - x.data.length) = u
  intro hd hrt htr hsl hca hops hroots
  have hslot : ∀ i, u.slot i = s.slot i := fun i => by unfold State.slot; rw [hsl]
  have hu : FetchSound u :=
    { slots := fun i => by
        have hi := h.slots i
        have hsub : (u.slotOps i).Sublist (s.slotOps i) := by
          rw [hops i]; exact List.sublist_append_left _ _
        refine ⟨hsub.length_le.trans hi.one, fun hq => ?_, ?_, ?_, fun o ho => ?_⟩
        · rw [hslot] at hq
          exact List.sublist_nil.mp ((hi.atRest hq) ▸ hsub)
        · rw [stagedCount_of hca]; exact hi.staged
        · rw [committedCount_of hca]; exact hi.committed
        · rw [hslot, stagedCount_of hca]; exact hi.room o (hsub.subset ho)
      root := fun hx => by
        have hne : s.rootReads ≠ [] := by
          rw [hroots]; simp [hx]
        have h1 := h.root hne
        rw [hd, hrt, htr]
        refine ⟨?_, h1.2⟩
        have := h1.1
        rw [hroots, List.length_append] at this
        have := List.length_pos_of_ne_nil hx
        omega
      start := fun hb i => by
        rw [hslot]
        rw [hd, hrt] at hb
        exact h.start hb i }
  unfold handOutcome
  split
  next i ho =>
    have hi := h.slots i
    have hnil : u.slotOps i = [] := by
      have := hi.one
      rw [hops i, if_pos ho, List.length_append] at this
      exact List.length_eq_zero_iff.mp (by rw [List.length_singleton] at this; omega)
    have hid : FetchIdle u i := ⟨hnil, (hu.slots i).staged, (hu.slots i).committed⟩
    refine fetchSound_conclude (hu.of_frame (slotOpSettled_frame _ i _ _ _)
      (slotOpSettled_fetch hid _ (fun hw => ?_) _ _) fun hb => ?_) i
    · rw [hslot, stagedCount_of hca]
      exact hi.room f.operation (by rw [hops i, if_pos ho]; simp) hw
    · have hb' : BeforeRootCopy s := by unfold BeforeRootCopy; rw [← hd, ← hrt]; exact hb
      have := slotOps_of_before h hb' i
      rw [hops i, if_pos ho] at this
      simp at this
  next ho =>
    have hne : s.rootReads ≠ [] := by rw [hroots, if_pos ho]; simp
    have h1 := h.root hne
    refine fetchSound_rootSettled hu (hd.trans h1.2.1) (hrt.trans h1.2.2.1) ?_ _
    have := h1.1
    rw [hroots, if_pos ho, List.length_append] at this
    exact List.length_eq_zero_iff.mp (by rw [List.length_singleton] at this; omega)

theorem fetchSound_settle {s : State} (h : FetchSound s) (p : MemPort) (id : IssueId)
    (x : Settlement) :
    FetchSound (settle s p id x) := by
  unfold settle
  split
  next e he => exact fetchSound_settleGranule h p id (List.mem_of_find?_eq_some he) x
  · split
    next f hf =>
      refine fetchSound_settleTable h ?_ x
      unfold State.tableFlight at hf
      split at hf
      · exact (Option.filter_eq_some_iff.mp hf).1
      · exact absurd hf (by simp)
    · exact h

theorem fetchSound_respond {s : State} (h : FetchSound s) (p : MemPort) (id : IssueId)
    (st : RespStatus)
    (data : List Byte) : FetchSound (respond s p id st data) := by
  unfold respond
  split
  · exact h
  · cases p <;> exact h.of_slots rfl rfl rfl rfl rfl (fun hx => hx)
  · exact fetchSound_settle h p id _

theorem fetchSound_epochExpires {s : State} (h : FetchSound s) : FetchSound (epochExpires s) := by
  refine h.of rfl rfl (fun i => ?_) rfl rfl id
  have : (epochExpires s).slot i = (s.slot i).expiry := by
    simp [epochExpires, State.slot]
  rw [this]
  exact ⟨rfl, rfl⟩

theorem fetchSound_passTime {s : State} (h : FetchSound s) (d : Nat) : FetchSound (passTime s d) := by
  have h1 : FetchSound (s.later d) := h.of_slots rfl rfl rfl rfl rfl id
  unfold passTime
  dsimp only
  split
  · split
    · exact h1.of_slots rfl rfl rfl rfl rfl id
    · exact (fetchSound_epochExpires h1).of_slots rfl rfl rfl rfl rfl id
  · exact h1

theorem fetchSound_passUntil {s : State} (h : FetchSound s) (d : Nat) : FetchSound
    (passUntil s d) :=
  (fetchSound_passTime h (d - 1)).of_slots rfl rfl rfl rfl rfl id

theorem fetchSound_expire {s : State} (h : FetchSound s) (p : MemPort) (id : IssueId) :
    FetchSound (expire s p id) := by
  unfold expire
  split
  · split
    · exact h
    · dsimp only
      split
      · have h1 := fetchSound_passUntil h
        have : ∀ (l : List (State → State)),
            (∀ g ∈ l, ∀ u, FetchSound u → FetchSound (g u)) → ∀ u, FetchSound u →
            FetchSound (l.foldl (fun t e => e t) u) := by
          intro l
          induction l with
          | nil => exact fun _ _ hu => hu
          | cons g l ih =>
            exact fun hg u hu =>
              ih (fun g' hg' => hg g' (by simp [hg'])) _ (hg g (by simp) u hu)
        refine this _ (fun g hg u hu => ?_) _
            (FetchSound.of_slots (h1 _) rfl rfl rfl rfl rfl (fun hx => hx))
        rw [mem_freeOrder] at hg
        rcases List.mem_cons.mp hg with rfl | hg
        · exact fetchSound_settle hu p id _
        · rw [List.mem_singleton.mp hg]
          exact fetchSound_epochExpires hu
      · exact fetchSound_settle (fetchSound_passTime h _) p id _
  · exact h

theorem fetchSound_limitWritten {s : State} (h : FetchSound s) (l : BitVec 12) :
    FetchSound (limitWritten s l) := by
  unfold limitWritten
  exact fetchSound_foldl (fun s x hs => fetchSound_settle hs x.1 x.2 _) _ _
      (h.of_slots rfl rfl rfl rfl rfl id)

theorem fetchSound_idle {s : State} (h : FetchSound s) : FetchSound (idle s) := by
  unfold idle
  split
  · unfold tick
    split
    · exact fetchSound_epochExpires (h.of_slots rfl rfl rfl rfl rfl id)
    · exact fetchSound_passTime h 1
  next x _ _ =>
    have h1 : FetchSound (s.spendFree 1) := h.of_slots rfl rfl rfl rfl rfl id
    exact fetchSound_settle h1 x.1 x.2 .timeout

/-! ### Arrivals and issues -/

theorem fetchSound_arrive {s : State} (h : FetchSound s) (r : Request) : FetchSound (arrive s r) := by
  unfold arrive
  split <;> exact h.of_slots rfl rfl rfl rfl rfl id

theorem fetchSound_issueGranule {s : State} (h : FetchSound s) (p : MemPort) (e : TrackerEntry)
    (id : IssueId) :
    FetchSound (issueGranule s p e id) := by
  unfold issueGranule
  cases p <;> exact h.of_slots rfl rfl rfl rfl rfl (fun hx => by
    show updateFirst _ _ s.tracker = []
    rw [hx]; rfl)

theorem fetchSound_auxIssue {s : State} (h : FetchSound s) : FetchSound (auxIssue s) := by
  unfold auxIssue
  split
  · exact h
  · split
    · exact fetchSound_issueGranule h _ _ _
    · exact h

theorem fetchSound_issueTable {s : State} (h : FetchSound s) {o : TableOp}
    (ho : s.tfu.offer = some o) (id : IssueId) :
    FetchSound (issueTable s o id) := by
  obtain ⟨hn, rest, hq⟩ : s.tfu.inFlight = none ∧ ∃ rest, s.tfu.queue = o :: rest := by
    unfold Tfu.offer at ho
    split at ho
    · exact absurd ho (by simp)
    next hn =>
      refine ⟨hn, ?_⟩
      cases hq : s.tfu.queue with
      | nil => simp [hq] at ho
      | cons x xs => simp [hq] at ho; exact ⟨xs, by rw [ho]⟩
  have hperm : ∀ q : TableOp → Bool, (((issueTable s o id).tfu.queue ++
      ((issueTable s o id).tfu.inFlight.map (·.operation)).toList).filter q).Perm
      ((s.tfu.queue ++ (s.tfu.inFlight.map (·.operation)).toList).filter q) := by
    intro q
    refine List.Perm.filter q ?_
    show (s.tfu.queue.tail ++ [o]).Perm _
    rw [hq, hn]
    simp
  refine ⟨fun i => ?_, fun hx => ?_, h.start⟩
  · have hi := h.slots i
    have hp := hperm (fun o => decide (o.owner = some i))
    exact ⟨hp.length_eq.le.trans hi.one, fun hq => List.perm_nil.mp
        ((hi.atRest hq) ▸ hp), hi.staged, hi.committed,
      fun x hx => hi.room x (hp.mem_iff.mp hx)⟩
  · have hp := hperm (fun o => o.owner.isNone)
    have := h.root (fun hy => hx (List.perm_nil.mp (hy ▸ hp)))
    exact ⟨hp.length_eq.trans this.1, this.2⟩

theorem fetchSound_primaryIssue {s : State} (h : FetchSound s) : FetchSound (primaryIssue s) := by
  unfold primaryIssue
  split
  · exact h
  · split
    · unfold serve
      split
      · split
        · exact (fetchSound_issueGranule h _ _ _).of_slots rfl rfl rfl rfl rfl id
        · exact h
      · split
        next o ho => exact (fetchSound_issueTable h ho _).of_slots rfl rfl rfl rfl rfl id
        · exact h
    · exact h

/-! ### Decode -/

theorem fetchSound_capture {s : State} (h : FetchSound s) (i : Slot) (sw : SwitchRec)
    (hr : s.device = .running)
    (hi : FetchIdle s i) : FetchSound (capture s i sw) := by
  unfold capture
  refine fetchSound_takeForce
      (h.of_frame (EngineFrame.setSlot s i _) (hi.setSlot i _).sound fun hb => ?_) i
  rcases hb with hb | hb
  · exact absurd (hr.symm.trans hb) (by simp)
  · exact absurd (hr.symm.trans hb.1) (by simp)

/-- The decode leaves the TFU alone, and the tracker grows only where the device decodes. -/
theorem fetchSound_placeDecode {s : State} (h : FetchSound s)
    (hd : s.device = .direct ∨ s.device = .running)
    (i : Slot) (r : Request) (w : Bool) (js : List Judged) : FetchSound (placeDecode s i r w js) := by
  have hr : s.rootReads = [] := by
    by_contra hx
    have := (h.root hx).2.1
    rcases hd with hd | hd <;> simp [hd] at this
  have key : ∀ t : State, t.tfu = s.tfu → t.cache = s.cache → t.slots = s.slots → t.device = s.device →
      t.root = s.root → FetchSound t := by
    intro t h1 h2 h3 h4 h5
    refine ⟨fun j => (h.slots j).of h1 h2 (by unfold State.slot; rw [h3])
        (by unfold State.slot; rw [h3]), fun hx => ?_, fun hb j => ?_⟩
    · exfalso
      apply hx
      unfold State.rootReads at hr ⊢
      rw [h1]; exact hr
    · rw [h4, h5] at hb
      unfold State.slot
      rw [h3]
      exact h.start hb j
  unfold placeDecode
  split <;> exact key _ rfl rfl rfl rfl rfl

theorem fetchSound_attempt {s : State} (h : FetchSound s) (i : Slot) (r : Request)
    (hd : s.slotDecodes i = true) :
    FetchSound (attempt s i r) := by
  have hdv : s.device = .direct ∨ (s.device = .running ∧ (s.slot i).state = .active) := by
    simp only [State.slotDecodes, Bool.or_eq_true, Bool.and_eq_true, decide_eq_true_iff] at hd
    tauto
  unfold attempt
  dsimp only
  have key : FetchSound (match attemptOutcome s i r (decodeRequest s i r) with
    | .taken => takeDecode s i r (decodeRequest s i r)
    | .held => s.setSlot i { s.slot i with held := true }
    | .notTaken => s) := by
    split
    · generalize decodeRequest s i r = js
      unfold takeDecode
      dsimp only
      have hp : FetchSound
          (placeDecode (s.setQueues i ((s.queues i).pop r.lane)) i r
              (s.watchWindow i r js).isSome js) :=
        fetchSound_placeDecode
            (h.of_slots (t := s.setQueues i ((s.queues i).pop r.lane)) rfl rfl rfl rfl rfl id)
                (hdv.imp id (·.1)) i r _ js
      have hl : ∀ u : State, FetchSound u → FetchSound (logDecode u i r js) := by
        intro u hu
        unfold logDecode
        split
        · exact hu.of_slots rfl rfl rfl rfl rfl id
        · exact hu
      have hc : ∀ u : State, FetchSound u → FetchSound (chargeBinding u i r js) := by
        intro u hu
        unfold chargeBinding
        split
        · exact fetchSound_setSlot hu i _ rfl rfl
        · exact hu
      have hall := hc _ (hl _ hp)
      split
      next w hw =>
        have hrun : s.device = .running := by
          unfold State.watchWindow at hw
          split at hw
          next hx => exact hx.1
          · exact absurd hw (by simp)
        have hdev : ∀ u : State,
            (chargeBinding (logDecode (placeDecode u i r
                (s.watchWindow i r js).isSome js) i r js) i r js).device = u.device ∧
            ((chargeBinding (logDecode (placeDecode u i r
                (s.watchWindow i r js).isSome js) i r js) i r js).slot i).state =
                    (u.slot i).state := by
          intro u
          have h1 : (placeDecode u i r (s.watchWindow i r js).isSome js).device = u.device ∧
              (placeDecode u i r (s.watchWindow i r js).isSome js).slots = u.slots := by
            unfold placeDecode; split <;> exact ⟨rfl, rfl⟩
          revert h1
          generalize placeDecode u i r (s.watchWindow i r js).isSome js = v
          intro h1
          have h2 : (logDecode v i r js).device = v.device ∧ (logDecode v i r js).slots = v.slots := by
            unfold logDecode; split <;> exact ⟨rfl, rfl⟩
          revert h2
          generalize logDecode v i r js = x
          intro h2
          unfold chargeBinding
          split
          · refine ⟨h2.1.trans h1.1, ?_⟩
            rw [State.slot_setSlot]
            show (x.slot i).state = _
            unfold State.slot
            rw [h2.2, h1.2]
          · refine ⟨h2.1.trans h1.1, ?_⟩
            unfold State.slot
            rw [h2.2, h1.2]
        have hact : (s.slot i).state = .active := by
          rcases hdv with hx | hx
          · exact absurd (hrun.symm.trans hx) (by simp)
          · exact hx.2
        have hd2 := hdev (s.setQueues i ((s.queues i).pop r.lane))
        refine fetchSound_capture hall i _ (hd2.1.trans hrun) ((hall.slots i).idle ?_)
        rw [hd2.2]
        exact Or.inr (Or.inr (Or.inl hact))
      · exact hall
    · exact fetchSound_setSlot h i _ rfl rfl
    · exact h
  exact key.of_slots rfl rfl rfl rfl rfl id

theorem fetchSound_decodeStep {s : State} (h : FetchSound s) : FetchSound (decodeStep s) := by
  unfold decodeStep
  split
  · exact h
  next i hi =>
    split
    · refine fetchSound_attempt h i _ ?_
      have := List.find?_some hi
      simp only [State.decodable, Bool.and_eq_true] at this
      exact this.1.1
    · exact h

/-! ### Resets -/

theorem countP_freeCache {p : CacheEntry → Bool} (h : p .free = false) :
    State.reset.cache.toList.countP p = 0 := by
  show (Vector.replicate 256 CacheEntry.free).toList.countP p = 0
  rw [Vector.toList_replicate, List.countP_replicate, h]
  rfl

/-- A state with the TFU and the window cache of State.reset and every slot OFF or UNBOUND. -/
theorem fetchSound_fresh {t : State} (h1 : t.tfu = State.reset.tfu)
    (h2 : t.cache = State.reset.cache)
    (h3 : ∀ i, (t.slot i).state = .off ∨ (t.slot i).state = .unbound) : FetchSound t where
  slots := fun i => FetchIdle.sound
    ⟨by unfold State.slotOps; rw [h1]; rfl,
     by rw [stagedCount_eq, h2, countP_freeCache rfl]; omega,
     by rw [committedCount_eq, h2, countP_freeCache rfl]; omega⟩
  root := fun hx => absurd (by unfold State.rootReads; rw [h1]; rfl) hx
  start := fun _ => h3

theorem fetchSound_deviceReset (s : State) : FetchSound (deviceReset s) := by
  refine fetchSound_fresh rfl rfl fun i => ?_
  have : ((deviceReset s).slot i).state = resetSlotState s.mgmt.slotEnable i.val := by
    simp [deviceReset, State.slot, SlotRecord.fresh]
  rw [this]
  unfold resetSlotState
  split
  · exact Or.inr rfl
  · exact Or.inl rfl

theorem fetchSound_powerOnReset (s : State) : FetchSound (powerOnReset s) := by
  refine fetchSound_fresh rfl rfl fun i => ?_
  right
  simp [powerOnReset, State.reset, State.slot, SlotRecord.fresh]

/-! ### Management -/

theorem fetchSound_startCommand {s : State} (h : FetchSound s) : FetchSound (startCommand s).2 := by
  unfold startCommand
  split
  next hd =>
    have hr : s.rootReads = [] := by
      by_contra hx
      have := (h.root hx).2.1
      simp [hd.1] at this
    exact fetchSound_queueRootRead
      ⟨fun i => (h.slots i).of rfl rfl rfl rfl, fun hx => absurd hr hx, fun _ => h.start
          (Or.inl hd.1)⟩ hr
  · exact h

theorem fetchSound_quiesceCommand {s : State} (h : FetchSound s) :
    FetchSound (quiesceCommand s).2 := by
  unfold quiesceCommand
  split
  next hd =>
    have hq : FetchSound { s with device := .quiescing } := by
      refine ⟨fun i => (h.slots i).of rfl rfl rfl rfl, fun hx => ?_, fun hb => ?_⟩
      · have := (h.root hx).2.1
        simp [hd] at this
      · rcases hb with hb | hb
        · exact absurd hb (by simp)
        · exact absurd hb.1 (by simp)
    exact fetchSound_deviceProgress hq
  · exact h

theorem fetchSound_resumeCommand {s : State} (h : FetchSound s) : FetchSound (resumeCommand s).2 := by
  unfold resumeCommand
  split
  next hd =>
    refine fetchSound_foldl (fun t i ht => fetchSound_answerUnboundSlot ht i) _ _
      (fetchSound_foldl (fun t i ht => fetchSound_takeForce ht i) _ _ ?_)
    refine ⟨fun i => (h.slots i).of rfl rfl rfl rfl, fun hx => ?_, fun hb => ?_⟩
    · have := (h.root hx).2.1
      rcases hd with hd | hd <;> simp [hd] at this
    · rcases hb with hb | hb
      · exact absurd hb (by simp [State.spendFree])
      · exact absurd hb.1 (by simp [State.spendFree])
  · exact h

theorem fetchSound_endForce {s : State} (h : FetchSound s) (i : Slot) (c : ResultCode) :
    FetchSound (s.endForce i c) :=
  (fetchSound_setSlot h i { s.slot i with lastForce := some c } rfl rfl).of_slots
    rfl rfl rfl rfl rfl id

theorem fetchSound_forceCommand {s : State} (h : FetchSound s) (i : Slot) (f : PendingForce) :
    FetchSound (forceCommand i f s).2 := by
  unfold forceCommand
  split_ifs
  · exact h
  · exact h
  · exact fetchSound_endForce h i _
  · exact fetchSound_endForce h i _
  · exact fetchSound_conclude
      (fetchSound_setSlot h i { s.slot i with pendingForce := some f } rfl rfl) i

theorem fetchSound_cancelCommand {s : State} (h : FetchSound s) (i : Slot) :
    FetchSound (cancelCommand i s).2 := by
  unfold cancelCommand
  split
  · exact (fetchSound_endForce (fetchSound_setSlot h i { s.slot i with pendingForce := none }
      rfl rfl) i .cancelled).of_slots rfl rfl rfl rfl rfl id
  · exact h.of_slots rfl rfl rfl rfl rfl id

theorem fetchSound_enableSlot {s : State} (h : FetchSound s) (i : Slot) :
    FetchSound (enableSlot s i) := by
  unfold enableSlot
  split
  · exact fetchSound_setSlot h i _ rfl rfl
  · split
    next ho =>
      have hid : FetchIdle s i := (h.slots i).idle (Or.inl ho)
      unfold enableOff
      split
      next hd =>
        refine fetchSound_conclude
            (fetchSound_endDraining (h.of_frame (EngineFrame.setSlot s i _)
                (hid.setSlot i _).sound fun hb => ?_) i) i
        rcases hb with hb | hb
        · exact absurd (hd.1.symm.trans hb) (by simp)
        · exact absurd (hd.1.symm.trans hb.1) (by simp)
      · exact h.of_frame (EngineFrame.setSlotState s i _) (hid.setSlotState i _).sound
          fun _ => Or.inr (by simp [State.setSlotState])
    · exact h

theorem fetchSound_disableSlot {s : State} (h : FetchSound s) (i : Slot) :
    FetchSound (disableSlot s i) := by
  have h1 : FetchSound (s.answerDisabledQueues i) := by
    unfold State.answerDisabledQueues
    have := fetchSound_foldl (f := fun s (r : Request) => s.form (answerOf r .unsupported))
      (fun t r ht => ht.of_slots rfl rfl rfl rfl rfl id) (s.queues i).all s h
    exact this.of_slots rfl rfl rfl rfl rfl id
  have h2 : FetchSound
      ((s.answerDisabledQueues i).setSlot i
        { (s.answerDisabledQueues i).slot i with held := false }) :=
    fetchSound_setSlot h1 i _ rfl rfl
  have h3 : ∀ u : State, FetchSound u → FetchSound (endPending u i) := by
    intro u hu
    unfold endPending
    split
    · exact fetchSound_endForce
        (fetchSound_setSlot hu i { u.slot i with pendingForce := none } rfl rfl) i _
    · exact hu
  unfold disableSlot
  dsimp only
  have h4 := h3 _ h2
  revert h4
  generalize endPending _ i = u
  intro h4
  split
  · exact fetchSound_setSlot h4 i _ rfl rfl
  next hs =>
    have hq : (u.slot i).state = .off ∨ (u.slot i).state = .unbound ∨ (u.slot i).state = .active ∨
        (u.slot i).state = .draining := by
      revert hs
      cases (u.slot i).state <;> simp [SlotState.inSwitch]
    exact h4.of_frame (completeDisable_frame u i)
        (completeDisable_idle ((h4.slots i).idle hq)).sound
      fun _ => Or.inl (by simp [completeDisable])

theorem fetchSound_slotEnableCommand {s : State} (h : FetchSound s) (v : BitVec 16) :
    FetchSound (slotEnableCommand v s).2 := by
  unfold slotEnableCommand
  refine fetchSound_foldl (fun t i ht => ?_) _ _ (h.of_slots rfl rfl rfl rfl rfl id)
  unfold slotBitChanged
  split
  · exact fetchSound_enableSlot ht i
  · exact fetchSound_disableSlot ht i

theorem fetchSound_commandWritten {s : State} (h : FetchSound s) (v : Word) :
    FetchSound (commandWritten v s).2 := by
  unfold commandWritten
  split
  · exact fetchSound_startCommand h
  · exact fetchSound_deviceReset s
  · exact fetchSound_quiesceCommand h
  · exact fetchSound_resumeCommand h
  · exact h.of_slots rfl rfl rfl rfl rfl id
  · exact h

theorem fetchSound_registerWritten {s : State} (h : FetchSound s) (n : BitVec 16) (v : Word) :
    FetchSound (registerWritten n v s).2 := by
  unfold registerWritten
  split
  · exact h.of_slots rfl rfl rfl rfl rfl id
  · exact h.of_slots rfl rfl rfl rfl rfl id
  · exact fetchSound_commandWritten h v
  · exact fetchSound_slotEnableCommand h _
  · unfold responseLimitCommand; split; exacts [fetchSound_limitWritten h _, h]
  · unfold forceWritten; split; exacts [fetchSound_forceCommand h _ _, fetchSound_forceCommand h _ _, h]
  · exact fetchSound_cancelCommand h _
  · unfold slotSelectCommand; split; exacts [h.of_slots rfl rfl rfl rfl rfl id, h]
  · exact h.of_slots rfl rfl rfl rfl rfl id
  · exact h.of_slots rfl rfl rfl rfl rfl id
  · unfold noticeThresholdCommand; split; exacts [h.of_slots rfl rfl rfl rfl rfl id, h]
  all_goals exact h

theorem fetchSound_clockFrame {s : State} (h : FetchSound s) (f : List Byte) (v : Word)
    (bs : List Byte) :
    FetchSound (clockFrame s f v bs) := by
  have h3 : ∀ g, FetchSound (atByte3 g s).1 := by
    intro g
    unfold atByte3
    split
    · unfold readTaken
      split
      · exact h.of_slots rfl rfl rfl rfl rfl id
      · exact h.of_slots rfl rfl rfl rfl rfl id
      · exact h
    · exact h
  have h7 : ∀ g (u : State), FetchSound u → FetchSound (atByte7 g u).2 := by
    intro g u hu
    unfold atByte7
    split
    · exact fetchSound_registerWritten hu _ _
    · split
      · unfold readEnded
        split
        · exact hu
        · dsimp only
          split
          · exact hu.of_slots rfl rfl rfl rfl rfl id
          · exact hu
      · exact hu
  unfold clockFrame
  dsimp only
  have ha : FetchSound
      (if f.length < 3 ∧ 3 ≤ (f ++ bs).length then atByte3 (f ++ bs) s else (s, v)).1 := by
    split
    · exact h3 _
    · exact h
  revert ha
  generalize (if f.length < 3 ∧ 3 ≤ (f ++ bs).length then atByte3 (f ++ bs) s else (s, v)) = a
  intro ha
  split
  · exact (h7 _ _ ha).of_slots rfl rfl rfl rfl rfl id
  · exact ha.of_slots rfl rfl rfl rfl rfl id

theorem fetchSound_wholeFrame {s : State} (h : FetchSound s) (bs : List Byte) :
    FetchSound (wholeFrame bs s) := by
  unfold wholeFrame
  split
  · exact fetchSound_clockFrame h _ _ _
  · exact (fetchSound_clockFrame (s := deselect s)
      (h.of_slots rfl rfl rfl rfl rfl id) [] 0 bs).of_slots rfl rfl rfl rfl rfl id
  · exact h
  · exact h

theorem fetchSound_clockBytes {s : State} (h : FetchSound s) (bs : List Byte) :
    FetchSound (clockBytes bs s) := by
  unfold clockBytes
  split
  · exact h
  · split
    · exact fetchSound_clockFrame h _ _ _
    · exact fetchSound_clockFrame h _ _ _
    · exact h
    · exact h

theorem fetchSound_readLog {s : State} (h : FetchSound s) (x : ReadExtent) :
    FetchSound (readLog x s) := by
  unfold readLog
  split
  · exact fetchSound_wholeFrame h _
  · exact fetchSound_clockFrame h _ _ _
  · exact fetchSound_clockFrame h _ _ _
  · exact h
  · exact h
  · split
    · exact fetchSound_clockFrame h _ _ _
    · exact h
  · exact h
  · exact h
  · exact h

/-- The TFU queue of a sound state has room for the operation of every slot (R131). -/
theorem queue_length_of_fetchSound {s : State} (h : FetchSound s) : s.tfu.queue.length ≤ 16 := by
  by_cases hr : s.rootReads = []
  · have hsome : ∀ o ∈ s.tfu.queue, o.owner.isSome := by
      intro o ho
      unfold State.rootReads at hr
      have := List.filter_eq_nil_iff.mp hr o (by simp [ho])
      cases hx : o.owner <;> simp_all
    have hnd : (s.tfu.queue.filterMap (·.owner)).Nodup := by
      rw [List.nodup_iff_count_le_one]
      intro i
      have h1 := (h.slots i).one
      unfold State.slotOps at h1
      rw [List.filter_append, List.length_append] at h1
      rw [List.count_filterMap, List.countP_eq_length_filter]
      refine le_trans (le_of_eq ?_) (le_trans (Nat.le_add_right _ _) h1)
      congr 2
      funext o
      cases o.owner <;> simp [beq_eq_decide]
    have hlen : (s.tfu.queue.filterMap (·.owner)).length = s.tfu.queue.length := by
      rw [List.length_filterMap_eq_countP]
      exact List.countP_eq_length.mpr fun o ho => hsome o ho
    have := hnd.length_le_card
    simpa [hlen] using this
  · have h1 := h.root hr
    have hall : ∀ o ∈ s.tfu.queue, o.owner.isNone := by
      intro o ho
      cases hx : o.owner with
      | none => rfl
      | some i =>
        have := slotOps_of_before h (Or.inr ⟨h1.2.1, h1.2.2.1⟩) i
        unfold State.slotOps at this
        have := List.filter_eq_nil_iff.mp this o (by simp [ho])
        simp [hx] at this
    have h2 := h1.1
    unfold State.rootReads at h2
    rw [List.filter_append, List.length_append, List.filter_eq_self.mpr hall] at h2
    omega

end Sys2Proof.Machine
end

