-- ==== Sys2Proof/Laws/Link.lean ====
section
/-! SUPPORT. Management frames: the bytes of a frame read back, what a whole frame does as the receiver stands, and each row of the link as the register write or read it makes. -/

namespace Sys2Proof.Machine

/-! ### The bytes of a frame (R172) -/

/-- Two fields that stand side by side in a word, put together again. -/
theorem extract_append {w k m n : Nat} (x : BitVec w) :
    x.extractLsb' (k + n) m ++ x.extractLsb' k n = x.extractLsb' k (m + n) := by
  ext i hi
  simp only [BitVec.getElem_append, BitVec.getElem_extractLsb']
  split
  · rfl
  · congr 1; omega

theorem frameIndex_writeFrame (n : BitVec 16) (v : Word) : frameIndex (writeFrame n v) = n :=
  (extract_append (k := 0) n).trans (BitVec.extractLsb'_eq_self)

theorem frameIndex_readFrame (n : BitVec 16) : frameIndex (readFrame n) = n :=
  (extract_append (k := 0) n).trans (BitVec.extractLsb'_eq_self)

theorem frameValue_writeFrame (n : BitVec 16) (v : Word) : frameValue (writeFrame n v) = v := by
  show v.extractLsb' 24 8 ++ v.extractLsb' 16 8 ++ v.extractLsb' 8 8 ++ v.extractLsb' 0 8 = v
  rw [extract_append (k := 16) (m := 8) (n := 8), extract_append (k := 8) (m := 16) (n := 8),
    extract_append (k := 0) (m := 24) (n := 8)]
  exact BitVec.extractLsb'_eq_self

/-! ### A whole frame -/

/-- A write frame at the frame boundary is judged by its index (R174, R175). -/
theorem wholeFrame_write {s : State} (h : TakesFrames s) (n : BitVec 16) (v : Word) :
    wholeFrame (writeFrame n v) s = (registerWritten n v s).2.framed (registerWritten n v s).1 := by
  unfold wholeFrame
  rw [h]
  have hi := frameIndex_writeFrame n v
  have hv := frameValue_writeFrame n v
  unfold writeFrame at *
  simp only [clockFrame, atByte3, atByte7, readByte, writeByte, List.nil_append] at *
  simp only [List.length_cons, List.length_nil, List.head?_cons, hi, hv]
  rfl

/-- The state after a whole read frame at the frame boundary (R173, R174). -/
def State.wholeRead (s : State) (n : BitVec 16) : State :=
  { (readEnded n (readTaken n s)).2 with
    link :=
      { receiver := .complete, value := (s.readRegister n).getD 0
        status := some (readEnded n (readTaken n s)).1 } }

/-- A read frame at the frame boundary takes its value at byte 3 and makes its side effects at byte 7
(R173). -/
theorem wholeFrame_read {s : State} (h : TakesFrames s) (n : BitVec 16) :
    wholeFrame (readFrame n) s = s.wholeRead n := by
  unfold wholeFrame
  rw [h]
  have hi := frameIndex_readFrame n
  unfold readFrame at *
  simp only [clockFrame, atByte3, atByte7, readByte, writeByte, List.nil_append] at *
  simp only [List.length_cons, List.length_nil, List.head?_cons, hi]
  rfl

/-- A whole frame of another command byte at the frame boundary reads nothing, writes nothing and is
REFUSED (R173). -/
theorem wholeFrame_bad {s : State} (h : TakesFrames s) {b : Byte} (hr : b ≠ readByte)
    (hw : b ≠ writeByte) :
    wholeFrame [b, 0, 0, 0, 0, 0, 0, 0] s = s.framed .refused := by
  unfold wholeFrame
  rw [h]
  simp only [clockFrame, atByte3, atByte7, List.nil_append]
  simp [hr, hw, State.framed]

/-- Past byte 8 and before chip select goes high after a power-on reset, frames are ignored (R173). -/
theorem wholeFrame_of_deaf {s : State}
    (h : s.link.receiver = .complete ∨ s.link.receiver = .awaitDeselect) (bs : List Byte) :
    wholeFrame bs s = s := by
  unfold wholeFrame
  rcases h with h | h <;> rw [h]

/-! ### The words the rows write -/

theorem slotField_of_low {v : Word} {i : Slot} (h : v.extractLsb' 0 4 = slotBits i) :
    slotField v = i := by
  show (v.extractLsb' 0 4).toFin = i
  rw [h]; rfl

theorem forceCallWord_fields (i : Slot) (group entry : Byte) (v : Word)
    (h : v = 0#8 ++ entry ++ group ++ 1#4 ++ slotBits i) :
    v.extractLsb' 0 4 = slotBits i ∧ v.extractLsb' 4 4 = 1#4 ∧ v.extractLsb' 8 8 = group ∧
      v.extractLsb' 16 8 = entry := by
  subst h
  refine ⟨?_, ?_, ?_, ?_⟩ <;>
    · ext k hk
      simp only [BitVec.getElem_extractLsb', BitVec.getLsbD_append]
      interval_cases k <;> simp

theorem forceRebindWord_fields (i : Slot) (v : Word) (h : v = 0#8 ++ 0#8 ++ 0#8 ++ 2#4 ++ slotBits i) :
    v.extractLsb' 0 4 = slotBits i ∧ v.extractLsb' 4 4 = 2#4 := by
  subst h
  refine ⟨?_, ?_⟩ <;>
    · ext k hk
      simp only [BitVec.getElem_extractLsb', BitVec.getLsbD_append]
      interval_cases k <;> simp

theorem registerWritten_forceCall (i : Slot) (group entry : Byte) (s : State) :
    registerWritten 0x07 (0#8 ++ entry ++ group ++ 1#4 ++ slotBits i) s =
      forceCommand i (.call { group := group, entry := entry }) s := by
  obtain ⟨h1, h2, h3, h4⟩ := forceCallWord_fields i group entry _ rfl
  show forceWritten _ s = _
  unfold forceWritten
  rw [h2, h3, h4, slotField_of_low h1]
  rfl

theorem registerWritten_forceRebind (i : Slot) (s : State) :
    registerWritten 0x07 (0#8 ++ 0#8 ++ 0#8 ++ 2#4 ++ slotBits i) s = forceCommand i .rebind s := by
  obtain ⟨h1, h2⟩ := forceRebindWord_fields i _ rfl
  show forceWritten _ s = _
  unfold forceWritten
  rw [h2, slotField_of_low h1]
  rfl

theorem registerWritten_cancel (i : Slot) (s : State) :
    registerWritten 0x08 (0#28 ++ slotBits i) s = cancelCommand i s := by
  show cancelCommand (slotField _) s = _
  rw [slotField_of_low (i := i)]
  ext k hk
  simp only [BitVec.getElem_extractLsb', BitVec.getLsbD_append]
  interval_cases k <;> simp

theorem registerWritten_slotEnable (b : BitVec 16) (s : State) :
    registerWritten 0x05 (0#16 ++ b) s = slotEnableCommand b s := by
  show slotEnableCommand ((0#16 ++ b).setWidth 16) s = _
  congr 1
  ext k hk
  rw [BitVec.getElem_setWidth]
  exact BitVec.getLsbD_append.trans (by simp [hk])

/-! ### The rows of the link at the frame boundary

Each answers with its status and the register's effect. -/

/-- The answer of a row that writes a register. -/
def answered (r : FrameStatus × State) : Host.Outcome State Fault Refusal :=
  .next (r.2.framed r.1).latchNotice

theorem finish_write {s : State} (h : TakesFrames s) (n : BitVec 16) (v : Word) :
    finish (wholeFrame (writeFrame n v) s) = answered (registerWritten n v s) := by
  rw [wholeFrame_write h]; rfl

theorem exec_start {s : State} (h : TakesFrames s) : exec .start s = answered (startCommand s) :=
  finish_write h 0x04 1

theorem exec_reset {s : State} (h : TakesFrames s) : exec .reset s = answered (resetCommand s) :=
  finish_write h 0x04 2

theorem exec_quiesce {s : State} (h : TakesFrames s) :
    exec .quiesce s = answered (quiesceCommand s) :=
  finish_write h 0x04 3

theorem exec_resume {s : State} (h : TakesFrames s) : exec .resume s = answered (resumeCommand s) :=
  finish_write h 0x04 4

theorem exec_logRestart {s : State} (h : TakesFrames s) :
    exec .logRestart s = answered (logRestartCommand s) :=
  finish_write h 0x04 5

theorem exec_forceCall {s : State} (h : TakesFrames s) (i : Slot) (group entry : Byte) :
    exec (.forceCall i group entry) s =
      answered (forceCommand i (.call { group := group, entry := entry }) s) := by
  rw [← registerWritten_forceCall]; exact finish_write h 0x07 _

theorem exec_forceRebind {s : State} (h : TakesFrames s) (i : Slot) :
    exec (.forceRebind i) s = answered (forceCommand i .rebind s) := by
  rw [← registerWritten_forceRebind]; exact finish_write h 0x07 _

theorem exec_cancel {s : State} (h : TakesFrames s) (i : Slot) :
    exec (.cancel i) s = answered (cancelCommand i s) := by
  rw [← registerWritten_cancel]; exact finish_write h 0x08 _

theorem exec_slotEnable {s : State} (h : TakesFrames s) (i : Slot) :
    exec (.slotEnable i) s = answered (slotEnableCommand (s.enableWith i) s) := by
  rw [← registerWritten_slotEnable]; exact finish_write h 0x05 _

theorem exec_slotDisable {s : State} (h : TakesFrames s) (i : Slot) :
    exec (.slotDisable i) s = answered (slotEnableCommand (s.enableWithout i) s) := by
  rw [← registerWritten_slotEnable]; exact finish_write h 0x05 _

theorem exec_responseLimitWrite {s : State} (h : TakesFrames s) (v : Word) :
    exec (.responseLimitWrite v) s = answered (responseLimitCommand v s) :=
  finish_write h 0x06 v

theorem exec_noticeStatusClear {s : State} (h : TakesFrames s) (v : Word) :
    exec (.noticeStatusClear v) s = answered (noticeStatusCommand v s) :=
  finish_write h 0x10 v

theorem exec_noticeEnableWrite {s : State} (h : TakesFrames s) (v : Word) :
    exec (.noticeEnableWrite v) s = answered (noticeEnableCommand v s) :=
  finish_write h 0x11 v

theorem exec_noticeThresholdWrite {s : State} (h : TakesFrames s) (v : Word) :
    exec (.noticeThresholdWrite v) s = answered (noticeThresholdCommand v s) :=
  finish_write h 0x12 v

theorem exec_registerWrite {s : State} (h : TakesFrames s) (n : BitVec 16) (v : Word) :
    exec (.registerWrite n v) s = answered (registerWritten n v s) :=
  finish_write h n v

theorem exec_badCommandByte {s : State} (h : TakesFrames s) {b : Byte} (hr : b ≠ readByte)
    (hw : b ≠ writeByte) : exec (.badCommandByte b) s = answered (.refused, s) := by
  show finish (wholeFrame _ s) = _
  rw [wholeFrame_bad h hr hw]; rfl

theorem exec_slotInfoRead {s : State} (h : TakesFrames s) (n : Fin 4) :
    exec (.slotInfoRead n) s = .next (s.wholeRead (0x0A + BitVec.ofNat 16 n.val)).latchNotice := by
  show finish (wholeFrame _ s) = _
  rw [wholeFrame_read h]; rfl

theorem exec_logDataRead_whole {s : State} (h : TakesFrames s) :
    exec (.logDataRead .whole) s = .next (s.wholeRead 0x0F).latchNotice := by
  show finish (wholeFrame _ s) = _
  rw [wholeFrame_read h]; rfl

/-! ### A power-on reset in a frame (R173) -/

theorem clockFrame_receiver (s : State) (f bs : List Byte) (v : Word) :
    (clockFrame s f v bs).link.receiver ≠ .boundary := by
  unfold clockFrame
  dsimp only
  split <;> simp

/-- Only with no frame begun does the receiver stand at the boundary. -/
theorem frameBegun_boundary (s : State) (frame : Option (List Byte)) :
    (frameBegun frame s).link.receiver = .boundary ↔
      s.link.receiver = .boundary ∧ frame = none := by
  unfold frameBegun
  cases frame with
  | none => simp
  | some bs =>
    simp only [reduceCtorEq, and_false, iff_false]
    unfold clockBytes select
    cases h : s.link.receiver <;> simp [h] <;> split <;> simp [h, clockFrame_receiver]

/-! ### Frames by their bytes (R172, R173) -/

/-- The bytes of a frame clocked with chip select going high after them, from the frame boundary. -/
theorem exec_chipSelectHigh {s : State} (h : TakesFrames s) {bytes : List Byte} (hb : bytes ≠ []) :
    exec (.chipSelectHigh bytes) s = finish (deselect (clockFrame s [] 0 bytes)) := by
  show finish (deselect (clockBytes bytes s)) = _
  unfold clockBytes
  rw [if_neg hb, h]

/-- A read frame of 7 bytes or more. -/
theorem exec_readFrame {s : State} (h : TakesFrames s) (n : BitVec 16) {more : List Byte}
    (hm : 4 ≤ more.length) :
    exec (.chipSelectHigh ([0x3A#8, n.extractLsb' 8 8, n.extractLsb' 0 8] ++ more)) s =
      .next { s.wholeRead n with
        link := { (s.wholeRead n).link with receiver := .boundary } }.latchNotice := by
  rw [exec_chipSelectHigh h (by simp)]
  set g := [0x3A#8, n.extractLsb' 8 8, n.extractLsb' 0 8] ++ more with hg
  have hl : g.length = 3 + more.length := by rw [hg]; simp; omega
  have hi : frameIndex g = n := frameIndex_readFrame n
  have h3 : atByte3 g s = (readTaken n s, (s.readRegister n).getD 0) := by
    unfold atByte3; rw [hi]; rfl
  have h7 : atByte7 g (readTaken n s) = readEnded n (readTaken n s) := by
    unfold atByte7; rw [hi]; rfl
  unfold clockFrame
  simp only [List.nil_append, List.length_nil]
  rw [if_pos (⟨by omega, by omega⟩ : 0 < 3 ∧ 3 ≤ g.length), h3,
    if_pos (⟨by omega, by omega⟩ : 0 < 7 ∧ 7 ≤ g.length), h7]
  rfl

/-- A read frame cut short after byte 3. -/
theorem exec_readFrame_cut {s : State} (h : TakesFrames s) (n : BitVec 16) {part : List Byte}
    (hp : part.length < 4) :
    exec (.chipSelectHigh ([0x3A#8, n.extractLsb' 8 8, n.extractLsb' 0 8] ++ part)) s =
      .next { readTaken n s with
        link :=
          { receiver := .boundary, value := (s.readRegister n).getD 0
            status := none } }.latchNotice := by
  rw [exec_chipSelectHigh h (by simp)]
  set g := [0x3A#8, n.extractLsb' 8 8, n.extractLsb' 0 8] ++ part with hg
  have hl : g.length = 3 + part.length := by rw [hg]; simp; omega
  have hi : frameIndex g = n := frameIndex_readFrame n
  have h3 : atByte3 g s = (readTaken n s, (s.readRegister n).getD 0) := by
    unfold atByte3; rw [hi]; rfl
  unfold clockFrame
  simp only [List.nil_append, List.length_nil]
  rw [if_pos (⟨by omega, by omega⟩ : 0 < 3 ∧ 3 ≤ g.length), h3,
    if_neg (fun h : 0 < 7 ∧ 7 ≤ g.length => absurd h.2 (by omega))]
  rfl

/-- A write frame of 7 bytes or more. -/
theorem exec_writeFrame {s : State} (h : TakesFrames s) (n : BitVec 16) (v : Word)
    (more : List Byte) :
    exec (.chipSelectHigh ([0x5C#8, n.extractLsb' 8 8, n.extractLsb' 0 8, v.extractLsb' 24 8,
        v.extractLsb' 16 8, v.extractLsb' 8 8, v.extractLsb' 0 8] ++ more)) s =
      .next { (registerWritten n v s).2 with
        link :=
          { receiver := .boundary, value := 0
            status := some (registerWritten n v s).1 } }.latchNotice := by
  rw [exec_chipSelectHigh h (by simp)]
  set g := [0x5C#8, n.extractLsb' 8 8, n.extractLsb' 0 8, v.extractLsb' 24 8,
        v.extractLsb' 16 8, v.extractLsb' 8 8, v.extractLsb' 0 8] ++ more with hg
  have hl : g.length = 7 + more.length := by rw [hg]; simp; omega
  have h3 : atByte3 g s = (s, 0) := rfl
  have h7 : atByte7 g s = registerWritten n v s := by
    have e1 : frameIndex g = n := frameIndex_writeFrame n v
    have e2 : frameValue g = v := frameValue_writeFrame n v
    unfold atByte7; rw [e1, e2]; rfl
  unfold clockFrame
  simp only [List.nil_append, List.length_nil]
  rw [if_pos (by omega), h3, if_pos (by omega), h7]
  rfl

end Sys2Proof.Machine
end

