-- ==== Sys2Proof/Laws/Settlement.lean ====
section
/-! SUPPORT. The settlements of the statements: what a command that settles a granule, a slot's table operation or the root record read does, and the time that passes up to a response limit, one lemma each. -/

namespace Sys2Proof.Machine

/-! ### A switch under way -/

theorem Switching.moves {s : State} {i : Slot} {st : SlotState} {sw : SwitchRec}
    (h : Switching s i st sw) : s.root ≠ none ∨ s.device ≠ .starting :=
  h.rooted.imp id And.right

theorem Switching.takes {s : State} {i : Slot} {st : SlotState} {sw : SwitchRec}
    (h : Switching s i st sw) : s.root ≠ none ∨ (s.slot i).pendingForce = none :=
  h.rooted.imp id And.left

/-- A failure in the event of a settled table operation. -/
theorem Switching.fails {s : State} {i : Slot} {st : SlotState} {sw : SwitchRec}
    (hs : Switching s i st sw) (id : IssueId) (ids : IdState) (n : Nat) {c : ResultCode}
    (hc : c ≠ .done) :
    conclude (failSwitch (s.tableSettled id ids n) i c) i =
      (s.tableSettled id ids n).switchFailed i sw c :=
  conclude_failSwitch (s := s.tableSettled id ids n) hs.takes hs.switch hc

/-- A load whose next read is queued stays in its stage. -/
theorem conclude_nextRead {u : State} {i : Slot}
    (h : (u.slot i).state = .loading ∨ (u.slot i).state = .binding) (x : Option SwitchRec)
    (o : TableOp) :
    conclude ((u.setSwitch i x).queueTable o) i = (u.setSwitch i x).queueTable o := by
  refine conclude_later ?_
  have e : ((u.setSwitch i x).queueTable o).slot i = { u.slot i with switch := x } :=
    State.slot_setSlot u i _
  rw [e]
  rcases h with h | h <;> simp [InLaterStage, h]

/-- A descriptor read is queued where the descriptor stays within its page. -/
theorem conclude_readDescriptor {t : State} {i : Slot} {sw : SwitchRec} {c : ListCursor}
    (h : (t.slot i).state = .loading ∨ (t.slot i).state = .binding)
    (h1 : (c.header.toNat + 8 + 16 * c.index) % 4096 + 16 ≤ 4096)
    (h2 : c.header.toNat + 8 + 16 * c.index < 2 ^ 40) :
    conclude (readDescriptor t i sw c) i =
      State.setSlot
        { t with
          tfu := { t.tfu with queue := t.tfu.queue ++
            [readOp i .descriptorRead (BitVec.ofNat 40 (c.header.toNat + 8 + 16 * c.index)) 16] } } i
        { t.slot i with switch := some { sw with cursor := some c } } := by
  unfold readDescriptor
  dsimp only
  rw [if_neg (by unfold descriptorCrosses Config.pageBytes; rw [decide_eq_true_eq]; omega),
    conclude_nextRead h, tableAddr_of_lt h2]
  rfl

/-- One that would cross a page fails the load. -/
theorem conclude_readDescriptor_crosses {t : State} {i : Slot} {sw : SwitchRec} {c : ListCursor}
    (h : t.root ≠ none ∨ (t.slot i).pendingForce = none)
    (h1 : 4096 < (c.header.toNat + 8 + 16 * c.index) % 4096 + 16) :
    conclude (readDescriptor t i sw c) i =
      t.switchFailed i { sw with cursor := some c } .windowBad := by
  unfold readDescriptor
  dsimp only
  rw [if_pos (by unfold descriptorCrosses Config.pageBytes; rw [decide_eq_true_eq]; omega)]
  unfold State.setSwitch
  exact conclude_failSwitch_of h rfl (by simp)

/-! ### A granule (R72, R79, R80, R82) -/

/-- The fault log after a settlement of a granule (R83). -/
def logAfter (s : State) (e : TrackerEntry) (o : Outstanding) (x : Settlement) : FaultLog :=
  match x.faultKind with
  | some k => s.log.join (granuleFault s k e o)
  | none => s.log

/-- The parts of a settlement of a granule, as `State.granuleSettled` puts them together. -/
theorem settled_eq {s : State} {p : MemPort} {id : IssueId} {before after : List TrackerEntry}
    {e : TrackerEntry} {eb ea : List Outstanding} {o : Outstanding} (x : Settlement)
    (hg : GranuleIssued s p id before e after) (he : EntryOf s e eb o ea) :
    (settleRequest (logSettlement (releaseGranule s p id x.idState) e x) e x).spendFree
        (e.count - x.data.length) =
      s.granuleSettled p id x.idState (logAfter s e o x) (before ++ after) eb
        (o.settle e x.status ((releaseGranule s p id x.idState).fitData x.data e.count)) ea
        (e.count - x.data.length) := by
  rw [releaseGranule_eq hg]
  set t := s.granuleReleased p id x.idState (before ++ after) with ht
  have he' : EntryOf t e eb o ea := he.released p id x.idState (before ++ after)
  have hf : ∀ k, settlementFault t e k = granuleFault s k e o := by
    intro k
    rw [settlementFault_eq he']
    cases p <;> rfl
  have hl : logSettlement t e x = { t with log := logAfter s e o x } := by
    unfold logSettlement logAfter
    cases x.faultKind with
    | none => cases p <;> rfl
    | some k =>
      show State.logFault _ _ = _
      rw [hf]; cases p <;> rfl
  have h2 : EntryOf { t with log := logAfter s e o x } e eb o ea :=
    ⟨he'.split, he'.own, he'.first⟩
  rw [hl]
  unfold settleRequest
  rw [h2.find]
  show State.spendFree (putSettled _ e (o.settle e x.status (t.fitData x.data e.count))) _ = _
  generalize o.settle e x.status _ = o'
  unfold putSettled State.granuleSettled
  split
  · rw [h2.update]; cases p <;> rfl
  · rw [h2.erase]; cases p <;> rfl

theorem settle_ok {o : Outstanding} {e : TrackerEntry} {data : List Byte} (s : State)
    (h : o.op = .read → data.length = e.count) :
    o.settle e .ok (s.fitData data e.count) = o.settledOk e data := by
  unfold Outstanding.settle Outstanding.settledOk Outstanding.settledAs setSlice State.fitData
  by_cases hr : o.op = .read
  · simp [hr, freeBytes, ← h hr]
  · simp [hr]

theorem settle_error (o : Outstanding) (e : TrackerEntry) (bytes : List Byte) :
    o.settle e .error bytes = o.settledAs e.granule .error := by
  unfold Outstanding.settle Outstanding.settledAs
  simp

/-- A command that settles a granule does what may follow from the settlement, and nothing else. -/
theorem exec_of_granuleSettles {s u : State} {c : Instr} {e : TrackerEntry}
    {rest : List TrackerEntry} {st : RespStatus} (h : GranuleSettles s c e rest st u) :
    exec c s = finish (afterGranule (reportWatch u e st) e.slot) := by
  obtain ⟨p, id, before, after, eb, o, ea, hg, he, rfl, hc⟩ := h
  have key : ∀ x : Settlement, settle s p id x =
      afterGranule (reportWatch _ e x.status) e.slot := fun x =>
    (settle_of_granule hg x).trans
      (congrArg (fun t => afterGranule (reportWatch t e x.status) e.slot) (settled_eq x hg he))
  rcases hc with ⟨data, rfl, rfl, hd, rfl⟩ | ⟨rfl, rfl, rfl⟩ | ⟨rfl, rfl, ⟨f, hf, hl⟩, rfl⟩
  · show finish (respond s p id .ok data) = _
    rw [respond_of_inUse hg.inUse, key]
    simp only [Settlement.status, Settlement.data, Settlement.idState, settle_ok _ hd]
    rfl
  · show finish (respond s p id .error []) = _
    rw [respond_of_inUse hg.inUse, key]
    simp only [Settlement.status, Settlement.data, Settlement.idState, settle_error]
    rfl
  · show finish (expire s p id) = _
    rw [expire_of_reached ((flightOf_granule hg).trans hf) hl.1 hl.2.1 hl.2.2, key]
    simp only [Settlement.status, Settlement.data, Settlement.idState, settle_error]
    rfl

/-- What the settlement of a granule leaves as it was, before what follows from it. -/
theorem GranuleSettles.parts {s u : State} {c : Instr} {e : TrackerEntry}
    {rest : List TrackerEntry} {st : RespStatus} (h : GranuleSettles s c e rest st u) :
    u.tracker = rest ∧ u.device = s.device ∧ u.slots = s.slots ∧ u.tfu = s.tfu ∧
      u.root = s.root ∧ u.mgmt = s.mgmt ∧ u.cache = s.cache ∧ u.map = s.map := by
  obtain ⟨p, id, before, after, eb, o, ea, hg, he, rfl, hc⟩ := h
  rcases hc with ⟨data, rfl, rfl, hd, rfl⟩ | ⟨rfl, rfl, rfl⟩ | ⟨rfl, rfl, hf, rfl⟩ <;> cases p <;>
    exact ⟨rfl, rfl, rfl, rfl, rfl, rfl, rfl, rfl⟩

theorem GranuleSettles.slot {s u : State} {c : Instr} {e : TrackerEntry}
    {rest : List TrackerEntry} {st : RespStatus} (h : GranuleSettles s c e rest st u) (i : Slot) :
    u.slot i = s.slot i := by
  unfold State.slot; rw [h.parts.2.2.1]

theorem reportWatch_of_plain {u : State} {e : TrackerEntry} (st : RespStatus)
    (h : e.watched = false) : reportWatch u e st = u := by
  unfold reportWatch; rw [h]; rfl

/-- A switch of another origin than the mailbox takes no report of the watched write (R151). -/
theorem reportWatch_of_other {u : State} {e : TrackerEntry} (st : RespStatus) {sw : SwitchRec}
    (h : (u.slot e.slot).switch = some sw) (ho : sw.origin ≠ .mailbox) : reportWatch u e st = u := by
  unfold reportWatch
  split
  · have hr : sw.report st = sw := by
      unfold SwitchRec.report
      cases hx : sw.origin <;> simp_all
    unfold State.setSwitch
    rw [h, Option.map_some, hr, ← h]
    exact State.setSlot_slot u e.slot
  · rfl

/-- A captured mailbox request takes it. -/
theorem reportWatch_of_mailbox {u : State} {e : TrackerEntry} (st : RespStatus) {sw : SwitchRec}
    (h : (u.slot e.slot).switch = some sw) (ho : sw.origin = .mailbox) :
    reportWatch u e st = u.setSlot e.slot { u.slot e.slot with
      switch := some { sw with
        watch := if e.watched = true then some (if st = .ok then .ok else .failed)
          else sw.watch } } := by
  unfold reportWatch State.setSwitch
  by_cases hw : e.watched = true
  · have hr : sw.report st = { sw with watch := some (if st = .ok then .ok else .failed) } := by
      unfold SwitchRec.report; simp [ho]
    rw [if_pos hw, h, Option.map_some, hr]
    simp only [hw, if_true]
  · rw [if_neg hw]
    have e1 : ({ sw with
        watch := if e.watched = true then some (if st = .ok then .ok else .failed)
          else sw.watch } : SwitchRec) = sw := by simp [hw]
    rw [e1, ← h]
    exact (State.setSlot_slot u e.slot).symm

/-- What follows the settlement of a granule of a DRAINING slot, where no root record read waits. -/
theorem afterGranule_of_drained {u : State} {i : Slot} (hr : u.root ≠ none ∨ u.device ≠ .starting)
    (hd : (u.slot i).state = .draining) :
    afterGranule u i = (conclude (endDraining u i) i).movesOn := by
  have hf := (endDraining_frame u i).trans (conclude_frame _ i)
  unfold afterGranule queueRootRead
  rw [if_pos hd, if_neg, deviceProgress_eq]
  rintro ⟨h1, h2, -⟩
  rw [hf.device] at h1
  rw [hf.root] at h2
  exact hr.elim (fun h => h h2) fun h => h h1

/-- What follows the settlement of a granule of a slot that is not DRAINING. -/
theorem afterGranule_of_settled {u : State} {i : Slot} (hd : (u.slot i).state ≠ .draining) :
    afterGranule u i = deviceProgress (queueRootRead u) := by
  unfold afterGranule
  rw [if_neg hd]

/-- The settlement of a granule of a slot that drains for a force or an enable. -/
theorem exec_drains {s u : State} {c : Instr} {e : TrackerEntry} {rest : List TrackerEntry}
    {st : RespStatus} {sw : SwitchRec} (h : GranuleSettles s c e rest st u)
    (hs : Switching s e.slot .draining sw) (ho : sw.origin ≠ .mailbox) :
    ((∃ x ∈ rest, x.slot = e.slot) → exec c s = .next u.movesOn.latchNotice) ∧
      ((∀ x ∈ rest, x.slot ≠ e.slot) →
        exec c s = .next (conclude (afterDraining u e.slot sw) e.slot).movesOn.latchNotice) := by
  obtain ⟨h1, h2, -, -, h5, -⟩ := h.parts
  have hsl := h.slot e.slot
  have husw : (u.slot e.slot).switch = some sw := by rw [hsl]; exact hs.switch
  have hust : (u.slot e.slot).state = .draining := by rw [hsl]; exact hs.state
  have hexec := exec_of_granuleSettles h
  rw [reportWatch_of_other st husw ho,
    afterGranule_of_drained (by rw [h5, h2]; exact hs.moves) hust] at hexec
  constructor
  · intro hx
    rw [hexec, endDraining_waits (by rw [h1]; exact hx), conclude_same _ (by rw [hust]; simp)]
    · rfl
    · apply takeForce_not
      rintro f - hm
      rcases hm with hm | ⟨hm, -⟩ | ⟨-, x, hx1, hx2⟩
      · rw [hust] at hm; simp at hm
      · rw [hust] at hm; simp at hm
      · rw [husw] at hx1
        obtain rfl := Option.some.inj hx1
        exact ho hx2
  · intro hx
    rw [hexec, endDraining_done (by rw [h1]; exact hx) hust husw]
    rfl

/-! ### A table operation (R77, R81, R82, R131) -/

theorem releaseTable_eq (s : State) (id : IssueId) (st : IdState) (n : Nat) :
    (releaseTable s id st).spendFree n = s.tableSettled id st n := rfl

/-- A slot's table operation settled OK. -/
theorem exec_ok_of {s : State} {id : IssueId} {o : TableOp} {i : Slot} {st : SlotState}
    {sw : SwitchRec} {data : List Byte} (ht : TableIssued s id o) (ho : o.owner = some i)
    (hs : Switching s i st sw) (hw : o.what.inStage st = true)
    (hd : o.op = .read → data.length = o.length) :
    exec (.responseArrival .primary id .ok data) s = .next
      ((conclude (slotOpOk (s.tableSettled id .free (o.length - data.length)) i sw o.what
        (if o.op = .read then data else [])) i).movesOn).latchNotice := by
  show finish (respond s .primary id .ok data) = _
  rw [respond_of_inUse (p := .primary) ht.inUse, settle_of_slotOp_ok ht ho hs hw hd,
    deviceProgress_eq]
  rfl

/-- The flight of the TFU's operation. -/
theorem flightOf_table {s : State} {id : IssueId} {o : TableOp} (ht : TableIssued s id o)
    {f : TfuFlight} (hf : s.tfu.inFlight = some f) : s.flightOf .primary id = some f.flight := by
  obtain ⟨time, hti⟩ := ht.inFlight
  have hn : s.tracker.find? (fun e => e.issuedAs .primary id) = none := by
    rw [List.find?_eq_none]
    intro y hy
    rw [issuedAs_iff]
    exact ht.noGranule y hy
  unfold State.flightOf State.tableFlight
  rw [hn, hti]
  rw [hti] at hf
  obtain rfl := Option.some.inj hf
  simp [Option.filter]

/-- The flight of an operation in flight, a granule or the TFU's. -/
theorem flightOf_inFlight {s : State} {p : MemPort} {id : IssueId} {f : Flight}
    (h : InFlight s p id f) : s.flightOf p id = some f := by
  rcases h with ⟨_, _, _, hg, hf⟩ | ⟨_, rfl, ht, hf⟩
  · rw [flightOf_granule hg, hf]
  · exact flightOf_table ht hf

/-- A failed table operation hands its failure to the block that queued it. -/
theorem exec_of_tableFails {s : State} {id : IssueId} {o : TableOp} {c : Instr} {ids : IdState}
    (h : TableFails s id o c ids) :
    ∃ timedOut, (timedOut = true ↔ ∃ p id', c = .responseLimitExpiry p id') ∧
      exec c s = finish
        ((handOutcome (s.tableSettled id ids o.length) o none timedOut).movesOn) := by
  obtain ⟨ht, hc⟩ := h
  have key : ∀ x : Settlement, x.status = .error → settle s .primary id x =
      (handOutcome (s.tableSettled id x.idState (o.length - x.data.length)) o none
        x.timedOut).movesOn := by
    intro x hx
    obtain ⟨time, he⟩ := settle_of_table ht x
    have hn : tableOutcome s o x = none := by
      cases x with
      | timeout => rfl
      | response st d => cases st <;> simp_all [Settlement.status, tableOutcome]
    rw [he]
    unfold settleTable
    dsimp only
    rw [hn, releaseTable_eq, deviceProgress_eq]
  rcases hc with ⟨rfl, rfl⟩ | ⟨rfl, rfl, f, hf, hl⟩
  · refine ⟨false, by simp, ?_⟩
    show finish (respond s .primary id .error []) = _
    rw [respond_of_inUse (p := .primary) ht.inUse, key _ rfl]
    rfl
  · refine ⟨true, by simp, ?_⟩
    show finish (expire s .primary id) = _
    rw [expire_of_reached (flightOf_table ht hf) hl.1 hl.2.1 hl.2.2, key _ rfl]
    rfl

/-- A slot's table operation settled failed. -/
theorem exec_fails_of {s : State} {id : IssueId} {o : TableOp} {c : Instr} {ids : IdState}
    {i : Slot} {sw : SwitchRec} (h : TableFails s id o c ids) (ho : o.owner = some i)
    (hsw : (s.slot i).switch = some sw) (hw : o.what.inStage (s.slot i).state = true) :
    ∃ timedOut, (timedOut = true ↔ ∃ p id', c = .responseLimitExpiry p id') ∧
      exec c s = .next ((conclude (slotOpFailed (s.tableSettled id ids o.length) i sw o.what
        timedOut) i).movesOn).latchNotice := by
  obtain ⟨x, hx, e⟩ := exec_of_tableFails h
  refine ⟨x, hx, ?_⟩
  rw [e]
  unfold handOutcome slotOpSettled
  simp only [ho, tableSettled_slot, hsw, hw, if_true]
  rfl

/-- The root record read settled failed. -/
theorem exec_root_fails {s : State} {id : IssueId} {o : TableOp} {c : Instr} {ids : IdState}
    (h : TableFails s id o c ids) (ho : o.owner = none) :
    exec c s =
      .next ((startFailed (s.tableSettled id ids o.length) .rootRead).movesOn).latchNotice := by
  obtain ⟨x, -, e⟩ := exec_of_tableFails h
  rw [e]
  unfold handOutcome rootSettled
  simp only [ho]
  rfl

/-- A slot's closing write settled, OK or failed. -/
theorem exec_write_settles {s : State} {id : IssueId} {o : TableOp} {c : Instr} {ids : IdState}
    {failed : Bool} {i : Slot} {sw : SwitchRec} (h : WriteSettles s id o c ids failed)
    (ho : o.owner = some i) (hsw : (s.slot i).switch = some sw)
    (hw : o.what.inStage (s.slot i).state = true) (hcl : o.what ≠ .savedWrite) :
    exec c s = .next ((conclude
      (if failed then slotOpFailed (s.tableSettled id ids o.length) i sw o.what false
        else slotOpOk (s.tableSettled id ids o.length) i sw o.what []) i).movesOn).latchNotice := by
  rcases h with ⟨ht, hop, rfl, rfl, rfl⟩ | ⟨h, rfl⟩
  · show finish (respond s .primary id .ok []) = _
    obtain ⟨time, he⟩ := settle_of_table ht (.response .ok [])
    rw [respond_of_inUse (p := .primary) ht.inUse, he]
    unfold settleTable handOutcome tableOutcome slotOpSettled
    dsimp only
    rw [releaseTable_eq, deviceProgress_eq]
    simp only [Settlement.idState, Settlement.data, List.length_nil, ho, tableSettled_slot, hsw, hw,
      if_true, hop]
    rfl
  · obtain ⟨x, -, e⟩ := exec_fails_of h ho hsw hw
    have : ∀ y : Bool, slotOpFailed (s.tableSettled id ids o.length) i sw o.what y =
        slotOpFailed (s.tableSettled id ids o.length) i sw o.what false := by
      intro y
      unfold slotOpFailed
      cases hx : o.what <;> simp_all
    rw [e, this x]
    rfl

/-! ### The start (R163) -/

theorem rootAddr_eq (s : State) :
    s.rootAddr =
      BitVec.ofNat 40 ((s.mgmt.rootHigh.toNat * 2 ^ 32 + s.mgmt.rootLow.toNat) / 256 * 256) := by
  unfold State.rootAddr alignDown
  congr 3
  rw [BitVec.toNat_append, ← Nat.shiftLeft_add_eq_or_of_lt s.mgmt.rootLow.isLt, Nat.shiftLeft_eq]

/-- A start that has no root copy yet does not end. -/
theorem deviceProgress_of_waiting {s : State} (hs : s.device = .starting) (hr : s.root = none) :
    deviceProgress s = s := by
  unfold deviceProgress State.startEnds State.quiesceEnds
  simp [hs, hr]

/-- A root record makes its root copy (R166). -/
theorem rootCopyOf_parseRoot (data : List Byte) : RootCopyOf data (parseRoot data) :=
  ⟨rfl, rfl, rfl, rfl, rfl, rfl, fun i => by unfold parseRoot; simp [addrField]⟩

/-- A root record that passes the checks of R164 gets no failure code. -/
theorem rootCheck_of_passes {data : List Byte} (h : RootPasses data) : rootCheck data = .done := by
  obtain ⟨h1, h2, h3, h4, h5⟩ := h
  unfold rootCheck
  rw [if_neg (by simp [h1]), if_neg, if_neg]
  · unfold RootCopy.regionBad parseRoot
    simp only [Bool.and_eq_true, Bool.or_eq_true, Bool.not_eq_true', decide_eq_true_eq,
      addrField_toNat, Config.addrSpace, Config.pageBytes]
    rintro ⟨a, b | b⟩ <;> rcases h5 with h5 | ⟨h5, h6⟩
    · exact a h5
    · rw [(alignedTo_iff (addrField data 24) 4096).mpr (by rw [addrField_toNat]; exact h5)] at b
      simp at b
    · exact a h5
    · omega
  · unfold RootCopy.directoryBad parseRoot alignDown
    simp only [Bool.or_eq_true, decide_eq_true_eq, addrField_toNat, Config.addrSpace]
    omega

/-- The root record read settled OK with a record that passes. -/
theorem exec_root_passes {s : State} {id : IssueId} {o : TableOp} {data : List Byte}
    (ht : TableIssued s id o) (ho : o.owner = none) (hop : o.op = .read)
    (hd : data.length = o.length) (hp : RootPasses data) :
    exec (.responseArrival .primary id .ok data) s =
      .next ((startPassed (s.tableSettled id .free 0) (parseRoot data)).movesOn).latchNotice := by
  show finish (respond s .primary id .ok data) = _
  obtain ⟨time, he⟩ := settle_of_table ht (.response .ok data)
  rw [respond_of_inUse (p := .primary) ht.inUse, he]
  unfold settleTable handOutcome tableOutcome rootSettled
  dsimp only
  rw [releaseTable_eq, deviceProgress_eq]
  simp only [Settlement.idState, Settlement.data, ho, hop, if_true, hd, Nat.sub_self]
  have hf : s.fitData data o.length = data := by
    unfold State.fitData
    rw [← hd, List.take_length, Nat.sub_self]
    simp [freeBytes]
  rw [hf, if_pos (rootCheck_of_passes hp)]
  rfl

/-- A slot enters BINDING at the root copy (R146, R167). -/
theorem beginBoot_eq {s : State} {c : RootCopy} (h : s.device = .starting) (hc : s.root = some c)
    (i : Slot) :
    beginBoot s i = s.startOpened i { forceRecord .bind none with origin := .bind } c := by
  set sw : SwitchRec := { forceRecord .bind none with origin := .bind } with hsw
  set t := s.setSlot i { s.slot i with state := .binding, switch := some sw } with ht
  have h1 : beginBoot s i = startBind t i sw := rfl
  have h2 := conclude_starting ((startBind_frame t i sw).device.trans h) i
  rw [conclude_startBind (s := t) (by rw [ht, State.slot_setSlot]) hc] at h2
  rw [h1, ← h2]
  exact startOpened_setSlot s _ _ sw c

/-- Slots enter BINDING one after another. -/
theorem foldl_beginBoot {c : RootCopy} (l : List Slot) {s : State} (h : s.device = .starting)
    (hc : s.root = some c) :
    l.foldl beginBoot s =
      l.foldl (fun t i => t.startOpened i { forceRecord .bind none with origin := .bind } c) s := by
  induction l generalizing s with
  | nil => rfl
  | cons i l ih =>
    have f : EngineFrame i s (beginBoot s i) :=
      (EngineFrame.setSlot s i _).trans (startBind_frame _ i _)
    rw [List.foldl_cons, List.foldl_cons, ih (f.device.trans h) (f.root.trans hc),
      beginBoot_eq h hc]

/-- The slots that take part in a start (R167). -/
theorem mem_bootSlots {s : State} {c : RootCopy} (hc : s.root = some c) (i : Slot) :
    i ∈ s.bootSlots ↔ s.mgmt.slotEnable.getLsbD i.val = true ∧ c.boot[i] ≠ 0 := by
  unfold State.bootSlots State.bootOf
  rw [hc]
  simp [allSlots]

/-- A root copy with a boot binding for one enabled slot. -/
theorem startPassed_one {s : State} {r : RootCopy} {i : Slot}
    (hb : ∀ j : Slot, s.mgmt.slotEnable.getLsbD j.val = true → (r.boot[j] ≠ 0 ↔ j = i))
    (he : s.mgmt.slotEnable.getLsbD i.val = true) :
    startPassed s r = beginBoot { s with root := some r, freeCount := s.freeCount + 1 } i := by
  have hs : ({ s with root := some r } : State).bootSlots = [i] := by
    have h : allSlots.filter (fun j => decide (j = i)) = [i] :=
      (by decide : ∀ i : Slot, (List.finRange 16).filter (fun j => decide (j = i)) = [i]) i
    rw [← h]
    apply List.filter_congr
    intro j _
    show (s.mgmt.slotEnable.getLsbD j.val && decide (r.boot[j] ≠ 0)) = _
    by_cases hj : s.mgmt.slotEnable.getLsbD j.val = true
    · simp only [hj, hb j hj, Bool.true_and]
    · have hji : j ≠ i := fun h => hj (h ▸ he)
      rw [Bool.not_eq_true] at hj
      rw [hj, Bool.false_and, decide_eq_false hji]
  unfold startPassed
  dsimp only
  rw [hs]
  rfl

/-! ### Time up to a response limit (R82, R95) -/

theorem flightOf_congr {s t : State} {p : MemPort} {id : IssueId} (h1 : t.tracker = s.tracker)
    (h2 : t.tfu = s.tfu) : t.flightOf p id = s.flightOf p id := by
  unfold State.flightOf State.tableFlight
  rw [h1, h2]

/-- The expiry of an operation whose age is `d` short of the limit: the time passes, and then the
operation settles, where no expiry of the epoch timer falls at that instant. -/
theorem expire_after {s : State} {p : MemPort} {id : IssueId} {f : Flight} {d : Nat}
    (hf : s.flightOf p id = some f) (hl : s.mgmt.responseLimit ≠ 0)
    (hd : s.timer.now + d = f.time + s.mgmt.responseLimit.toNat)
    (he : s.epochFallsAt d = false) :
    expire s p id = settle (passTime s d) p id .timeout := by
  have hx : f.time + s.mgmt.responseLimit.toNat - s.timer.now = d := by omega
  unfold expire
  simp only [hf, hl, if_false, hx, he]
  rfl

/-- Where one does, the two fall in a free order. -/
theorem expire_at_epoch {s : State} {p : MemPort} {id : IssueId} {f : Flight} {d : Nat}
    (hf : s.flightOf p id = some f) (hl : s.mgmt.responseLimit ≠ 0)
    (hd : s.timer.now + d = f.time + s.mgmt.responseLimit.toNat)
    (he : s.epochFallsAt d = true) :
    expire s p id = epochExpires (settle ((passUntil s d).spendFree 1) p id .timeout) ∨
      expire s p id = settle (epochExpires ((passUntil s d).spendFree 1)) p id .timeout := by
  have hx : f.time + s.mgmt.responseLimit.toNat - s.timer.now = d := by omega
  unfold expire
  simp only [hf, hl, if_false, hx, he, if_true, freeOrder, insertAt]
  generalize Config.freePlace s.freeCount _ = n
  cases n
  · exact Or.inl rfl
  · exact Or.inr rfl

theorem passTime_of_stopped {s : State} (d : Nat) (hr : s.timer.running = false) :
    passTime s d = s.later d := by
  unfold passTime; simp [hr]

theorem passTime_short {s : State} {d : Nat} (hr : s.timer.running = true)
    (hc : s.timer.count + d < s.epochLength) :
    passTime s d = (s.later d).setCount (s.timer.count + d) := by
  unfold passTime; simp [hr, hc]

theorem passTime_long {s : State} {d : Nat} (hr : s.timer.running = true)
    (hc : s.epochLength ≤ s.timer.count + d) :
    passTime s d =
      (epochExpires (s.later d)).setCount ((s.timer.count + d) % s.epochLength) := by
  unfold passTime; simp [hr, Nat.not_lt.mpr hc]

end Sys2Proof.Machine
end

