-- ==== Sys2Proof/WellFormed.lean ====
section
/-! DEFINITION. Well-formedness of a command: the shapes that the records' own fields require. -/

namespace Sys2Proof

/-- The mask of a request record: one enable for each byte of a WRITE, none for a READ (2.1, R25). -/
def Request.maskOk (r : Request) : Bool :=
  match r.op with
  | .read => r.mask.isEmpty
  | .write => r.mask.length == r.length

/-- The data of a request record: `length` bytes for a WRITE, none for a READ (2.1). -/
def Request.dataOk (r : Request) : Bool :=
  match r.op with
  | .read => r.data.isEmpty
  | .write => r.data.length == r.length

/-- A response's data: at most the 256 bytes of the longest issue, and none with status ERROR (R74). -/
def responseOk (status : RespStatus) (data : List Byte) : Bool :=
  match status with
  | .ok => decide (data.length ≤ 256)
  | .error => data.isEmpty

/-- The command bytes that name no frame: any but 3Ah and 5Ch (R172, R173). -/
def isBadCommandByte (b : Byte) : Bool :=
  b != 0x3A#8 && b != 0x5C#8

/-- A command is well formed when the record or byte it carries has the shape its rule gives it. -/
def Instr.wellFormed (i : Instr) : Bool :=
  match i with
  | .requestArrival r => r.maskOk && r.dataOk
  | .decodeAttempt => true
  | .completionSend => true
  | .auxPortIssue => true
  | .primaryPortIssue => true
  | .responseArrival _ _ status data => responseOk status data
  | .responseLimitExpiry _ _ => true
  | .epochExpiry => true
  | .start => true
  | .reset => true
  | .quiesce => true
  | .resume => true
  | .logRestart => true
  | .forceCall _ _ _ => true
  | .forceRebind _ => true
  | .cancel _ => true
  | .slotEnable _ => true
  | .slotDisable _ => true
  | .responseLimitWrite _ => true
  | .noticeStatusClear _ => true
  | .noticeEnableWrite _ => true
  | .noticeThresholdWrite _ => true
  | .logDataRead _ => true
  | .slotInfoRead _ => true
  | .registerWrite _ _ => true
  | .badCommandByte b => isBadCommandByte b
  | .resetInput => true
  | .resetInputRelease => true
  | .powerOnReset _ => true
  | .chipSelectHigh _ => true

end Sys2Proof
end

