-- ==== Sys2Proof/Tests/Slice0.lean ====
section
/-! SUPPORT. Tests: well-formedness, one step of each command, and for every statement with hypotheses a state and operands that meet them. -/

open Sys2Proof Sys2Proof.Machine

namespace Sys2Proof.Tests

set_option Elab.async false

/-! ### Small states and records -/

/-- A READ of 8 bytes at 1000h on the REGULAR lane of slot 0. -/
def readReq : Request :=
  { initiator := 0, tag := 3, op := .read, addr := 0x1000#40, length := 8, mask := [],
    lane := .regular, data := [] }

/-- A WRITE of 8 bytes at 1000h: the request word of a CALL of group 2, entry 5, tag 77h. -/
def writeReq : Request :=
  { readReq with
    op := .write, mask := List.replicate 8 true
    data := [0x01#8, 0x02#8, 0x05#8, 0x00#8, 0x77#8, 0x00#8, 0x00#8, 0x00#8] }

/-- A window of one page at 1000h on the P-port, for level 1, that watches. -/
def window : Window :=
  { reqBase := 0x1000#40, pages := 1, tgtBase := 0x8000#40, port := .primary, readThr := .upTo 1,
    writeThr := .upTo 1, watch := true, priorityOk := true, exempt := false }

/-- A binding of level 1 with 4 of 6 granules left. -/
def binding : Binding :=
  { record := 0x40#40, level := 1, epochBudget := 6, remaining := 4, denials := 0, switchIns := 1,
    fill := 0xA1B2C3D4#32, keep := true }

/-- A root copy with epochs of 10 microseconds, 3 directory entries and a boot binding of slot 0. -/
def root : RootCopy :=
  { dirAddr := 0x2000#40, dirLength := 3, epochLength := 10, fill := 0x11223344#32,
    regionBase := 0x8000#40, regionPages := 0, boot := (Vector.replicate 16 0).set 0 0x80#40 }

/-- A RUNNING device whose slot 0 has the record `r`. -/
def running (r : SlotRecord) : State :=
  { State.reset with
    device := .running, root := some root
    timer := { now := 5, count := 5, running := true } }.setSlot 0 r

/-- A bound slot at rest. -/
def bound : SlotRecord := { SlotRecord.fresh .active with binding := some binding }

/-- A state with a request at the head of slot 0's queue of its lane. -/
def withReq (s : State) (r : Request) : State := s.setQueues 0 (Intake.empty.push r)

/-- A state with the window in slot 0's committed list. -/
def withWindow (s : State) (w : Window) : State :=
  { s with cache := s.cache.set 0 (.committed 0 0 w) }

/-- A granule of slot 0, issued on the P-port under identifier 9 at time 2. -/
def granule : TrackerEntry :=
  { slot := 0, tag := 3, granule := 0, op := .read, lane := .regular, port := .primary,
    target := 0x8000#40, count := 8, mask := [], data := [], watched := false,
    flight := some { id := 9, time := 2 } }

/-- The outstanding entry of the granule. -/
def entry : Outstanding :=
  { slot := 0, tag := 3, op := .read, lane := .regular, addr := 0x1000#40, length := 8,
    granules := [{ outcome := .issuable 0x8000#40 .primary, settled := none }]
    data := List.replicate 8 0 }

/-- A state with one granule issued. -/
def withGranule (s : State) (e : TrackerEntry) (o : Outstanding) : State :=
  { s with tracker := [e], outstanding := [o], pPool := s.pPool.put 9 .inUse }

/-- A state with a table operation in flight under identifier 9 since time 2. -/
def withTable (s : State) (o : TableOp) : State :=
  { s with
    tfu := { queue := [], inFlight := some { operation := o, flight := { id := 9, time := 2 } } }
    pPool := s.pPool.put 9 .inUse }

/-- A mailbox switch of a CALL of group 2, entry 5. -/
def mailSwitch : SwitchRec :=
  { SwitchRec.new .mailbox .call with
    gate := some { group := 2, entry := 5 }, seqTag := some 0x77#16
    mailbox := some { target := 0x8000#40, request := 0x1000#40 }, watch := some .ok }

/-- A bound slot in a stage of the mailbox switch. -/
def inStage (st : SlotState) (sw : SwitchRec) : SlotRecord :=
  { bound with state := st, switch := some sw }

/-- The state a command leaves. -/
def after (c : Instr) (s : State) : State :=
  match exec c s with
  | .next t => t
  | .fault _ => s
  | .refused _ => s

/-! ### Well-formedness -/

theorem test_wellFormed_requests :
    (Instr.requestArrival readReq).wellFormed = true ∧
      (Instr.requestArrival writeReq).wellFormed = true := by decide

theorem test_illFormed_mask :
    (Instr.requestArrival { writeReq with mask := [true] }).wellFormed = false ∧
      (Instr.requestArrival { readReq with mask := [true] }).wellFormed = false := by decide

theorem test_illFormed_data :
    (Instr.requestArrival { writeReq with data := [0] }).wellFormed = false ∧
      (Instr.requestArrival { readReq with data := [0] }).wellFormed = false := by decide

theorem test_illFormed_response :
    (Instr.responseArrival .aux 0 .error [0]).wellFormed = false ∧
      (Instr.responseArrival .aux 0 .ok (List.replicate 257 0)).wellFormed = false ∧
      (Instr.responseArrival .aux 0 .ok (List.replicate 256 0)).wellFormed = true := by
  decide +kernel

theorem test_illFormed_commandByte :
    (Instr.badCommandByte 0x3A).wellFormed = false ∧
      (Instr.badCommandByte 0x5C).wellFormed = false ∧
      (Instr.badCommandByte 0x3B).wellFormed = true := by decide

/-! ### One step of each command -/

theorem test_requestArrival :
    ((after (.requestArrival readReq) State.reset).queues 0).regular = [readReq] := by
  decide +kernel

theorem test_requestArrival_malformed :
    (after (.requestArrival { readReq with length := 257 }) State.reset).log.records.map (·.kind) =
      [.malformed] := by decide +kernel

theorem test_decodeAttempt_direct :
    (after .decodeAttempt (withReq State.reset writeReq)).tracker.map
      (fun e => (e.target, e.count, e.data.length)) = [(0x1000#40, 8, 8)] := by decide +kernel

theorem test_decodeAttempt_watched :
    ((after .decodeAttempt (withReq (withWindow (running bound) window) writeReq)).slot 0).switch =
      some { mailSwitch with watch := some .pending } := by decide +kernel

theorem test_completionSend :
    (after .completionSend (State.reset.form (answerOf readReq .unsupported))).sent.map (·.tag) =
      some 3 := by decide +kernel

theorem test_auxPortIssue :
    (after .auxPortIssue
      { State.reset with tracker := [{ granule with port := .aux, flight := none }] }).aOut.map
      (·.id) = some 0 := by decide +kernel

theorem test_primaryPortIssue :
    (after .primaryPortIssue
      { State.reset with
        tracker := [{ granule with flight := none }]
        tfu := { queue := [readOp 1 .gateRead 0 16], inFlight := none } }).lastServed =
      .granule := by decide +kernel

theorem test_responseArrival :
    (after (.responseArrival .primary 9 .ok [1, 2, 3, 4, 5, 6, 7, 8])
      (withGranule State.reset granule entry)).completions.map (·.data) =
      [some [1, 2, 3, 4, 5, 6, 7, 8]] := by decide +kernel

theorem test_responseArrival_error :
    (after (.responseArrival .primary 9 .error []) (withGranule State.reset granule entry)).log.records.map
      (fun f => (f.kind, f.target)) = [(.memoryError, some 0x8000#40)] := by decide +kernel

theorem test_responseLimitExpiry :
    (after (.responseLimitExpiry .primary 9) (withGranule State.reset granule entry)).timer.now =
      1002 := by decide +kernel

/-- Epochs of 10 microseconds and a limit of 1000 from time 5 on, count 5: the expiries up to 1002 leave
the count at 2 and the binding refilled. -/
theorem test_responseLimitExpiry_epochs :
    (after (.responseLimitExpiry .primary 9) (withGranule (running bound) granule entry)).timer =
        { now := 1002, count := 2, running := true } ∧
      ((after (.responseLimitExpiry .primary 9)
        (withGranule (running bound) granule entry)).slot 0).binding.map (·.remaining) = some 6 := by
  decide +kernel

theorem test_epochExpiry :
    ((after .epochExpiry (running bound)).slot 0).binding.map (·.remaining) = some 6 := by
  decide +kernel

theorem test_start :
    (after .start { State.reset with
      mgmt := { Mgmt.fresh with rootLow := 0x123#32, rootHigh := 0xFF#8 } }).tfu.queue.map (·.target) =
      [0xFF00000100#40] := by decide +kernel

theorem test_reset :
    (after .reset (withReq (running bound) readReq)).completions.map (·.status) = [.aborted] := by
  decide +kernel

theorem test_quiesce : (after .quiesce (running bound)).device = .quiesced := by decide +kernel

theorem test_resume :
    ((after .resume ({ running bound with device := .quiesced }.setSlot 0
      { bound with pendingForce := some (.call { group := 2, entry := 5 }) })).slot 0).state =
      .resolving := by decide +kernel

theorem test_logRestart :
    (after .logRestart { State.reset with log := { FaultLog.empty with word := 2 } }).log.word =
      0 := by decide +kernel

theorem test_forceCall :
    (after (.forceCall 0 2 5) (running bound)).tfu.queue.map (·.target) = [0x2010#40] := by
  decide +kernel

theorem test_forceRebind :
    (after (.forceRebind 0) (running bound)).map.map (fun e => (e.record, e.role)) =
      [(0x80#40, .reserved)] := by decide +kernel

theorem test_cancel :
    (after (.cancel 0) (running { bound with pendingForce := some .rebind })).cancelWord =
      0x00000F00#32 := by decide +kernel

theorem test_slotEnable :
    ((after (.slotEnable 1) { State.reset.setSlot 1 (SlotRecord.fresh .off) with
      mgmt := { Mgmt.fresh with slotEnable := 0xFFFD#16 } }).slot 1).state = .unbound := by
  decide +kernel

theorem test_slotDisable :
    ((after (.slotDisable 0) (running bound)).slot 0).state = .off := by decide +kernel

theorem test_responseLimitWrite :
    (after (.responseLimitWrite 4096#32) State.reset).link.status = some .refused ∧
      (after (.responseLimitWrite 4095#32) State.reset).mgmt.responseLimit = 4095#12 := by
  decide +kernel

theorem test_noticeStatusClear :
    (after (.noticeStatusClear 5#32)
      { State.reset with mgmt := { Mgmt.fresh with sticky := 7#3 } }).mgmt.sticky = 2#3 := by
  decide +kernel

theorem test_noticeEnableWrite :
    (after (.noticeEnableWrite 1#32)
      { State.reset with mgmt := { Mgmt.fresh with sticky := 1#3 } }).ntc = true := by
  decide +kernel

theorem test_noticeThresholdWrite :
    (after (.noticeThresholdWrite 33#32) State.reset).link.status = some .refused ∧
      (after (.noticeThresholdWrite 32#32) State.reset).mgmt.threshold = 32 := by decide +kernel

/-- A START record with code ROOT_TAG: kind 14, detail mark, code 3 in word 2. -/
def startRecord : FaultRecord :=
  { kind := .startFault, slot := 0, context := none, request := none, target := none,
    detail := some (.start .rootTag) }

theorem test_logDataRead :
    (after (.logDataRead .whole)
      { State.reset with log := { FaultLog.empty with records := [startRecord] } }).link.value =
      0x0000080E#32 := by decide +kernel

theorem test_slotInfoRead :
    (after (.slotInfoRead 0) (running bound)).link.value = 0x00FF0034#32 := by decide +kernel

theorem test_registerWrite :
    (after (.registerWrite 0x13#16 0) State.reset).link.status = some .badIndex ∧
      (after (.registerWrite 0x03#16 0x1FF#32) State.reset).mgmt.rootHigh = 0xFF#8 := by
  decide +kernel

theorem test_badCommandByte :
    (after (.badCommandByte 0) State.reset).link.status = some .refused := by decide +kernel

theorem test_resetInput :
    (after (.requestArrival readReq) (after .resetInput State.reset)).presented = [readReq] := by
  decide +kernel

theorem test_resetInputRelease :
    ((after .resetInputRelease { State.reset with resetHeld := true, presented := [readReq] }).queues
      0).regular = [readReq] := by decide +kernel

theorem test_powerOnReset :
    (after (.powerOnReset none) (withReq (running bound) readReq)).completions = [] ∧
      (after (.powerOnReset none) State.reset).link.receiver = .boundary := by decide +kernel

/-- In a frame begun, with no byte of it complete or one: the next frame is not taken before chip select
has gone high. -/
theorem test_powerOnReset_inFrame :
    (after (.powerOnReset (some [])) State.reset).link.receiver = .awaitDeselect ∧
      (after (.powerOnReset (some [0x3A])) State.reset).link.receiver = .awaitDeselect ∧
      (after .start (after (.powerOnReset (some [])) State.reset)).device = .direct := by
  decide +kernel

theorem test_chipSelectHigh :
    (after (.chipSelectHigh []) (after .start State.reset)).link.receiver = .boundary := by
  decide +kernel

/-- A read and a write of RESPONSE_LIMIT, a read of an index that names no register, and a read cut short
after byte 3. -/
theorem test_frames :
    (after (.chipSelectHigh [0x3A, 0, 0x06, 0, 0, 0, 0, 0]) State.reset).link =
        { receiver := .boundary, value := 1000#32, status := some .ok } ∧
      (after (.chipSelectHigh [0x3A, 1, 0x06, 0, 0, 0, 0, 0]) State.reset).link =
        { receiver := .boundary, value := 0, status := some .badIndex } ∧
      (after (.chipSelectHigh [0x5C, 0, 0x06, 0, 0, 0x01, 0x02]) State.reset).mgmt.responseLimit =
        0x102#12 ∧
      (after (.chipSelectHigh [0x3A, 0, 0x06]) State.reset).link.value = 1000#32 := by decide +kernel

/-! ### Witnesses: a state and operands for each statement's hypotheses

Each theorem witness_<Name> meets the hypotheses of the obligation of that name, one conjunct or one
theorem for each clause. -/

/-- A slot at the pointer with a decodable candidate is chosen. -/
theorem chosen_at_pointer {s : State} {r : Request} (hc : s.candidate s.pointer = some r)
    (hd : s.decodable s.pointer = true) : Chosen s s.pointer r :=
  { candidate := (candidate_iff s _ r).mp hc
    decodable := (decodable_iff s _).mp hd
    first := fun k hk => by simp at hk }

/-- The only window of a list decides the granules it covers. -/
theorem decided_by_only {s : State} {i : Slot} {r : Request} {j : Nat} {w : Window}
    (hl : s.committedList i = [w]) (hc : w.covers (granuleStart r.addr j) = true) :
    DecidedBy s i r j w :=
  ⟨[], [], hl, hc, by simp⟩

theorem witness_StepRunsTheFrontCommand :
    ({ State.reset with pending := [.start] } : State).pending = [.start] := rfl

theorem witness_EmptyQueueLetsTimePass_stopped :
    State.reset.pending = [] ∧ State.reset.dueOps = [] ∧ State.reset.timer.running = false := by
  decide +kernel

/-- Slot 0 bound in a RUNNING device with the epoch count `n`. -/
def counted (n : Nat) : State :=
  { running bound with timer := { now := 5, count := n, running := true } }

theorem witness_EmptyQueueLetsTimePass_running :
    (counted 8).pending = [] ∧ (counted 8).dueOps = [] ∧ (counted 8).timer.running = true ∧
      (counted 8).timer.count + 1 < (counted 8).epochLength := by decide +kernel

theorem witness_EmptyQueueLetsTimePass_expiry :
    (counted 9).pending = [] ∧ (counted 9).dueOps = [] ∧ (counted 9).timer.running = true ∧
      (counted 9).epochLength ≤ (counted 9).timer.count + 1 := by decide +kernel

/-- One granule issued at time 2, the timebase at 1002: its age is the response limit. -/
def due : State :=
  { withGranule State.reset granule entry with timer := { now := 1002, count := 0, running := false } }

theorem witness_EmptyQueueLetsTimePass_due : due.pending = [] ∧ due.dueOps ≠ [] := by
  decide +kernel

/-! Arrivals -/

theorem witness_FirstFailingCheck_malformed :
    FormFails { readReq with length := 0 } ∧ FormFails { readReq with length := 257 } ∧
      FormFails { readReq with addr := 0x1FFF#40, length := 2 } ∧
      ¬FormFails { readReq with addr := 0x1FFF#40, length := 1 } ∧
      ¬FormFails { readReq with length := 256 } := by
  unfold FormFails
  decide +kernel

theorem witness_FirstFailingCheck_tagReuse :
    ¬FormFails readReq ∧ TagTaken (withReq State.reset readReq) readReq ∧
      TagTaken (withGranule State.reset granule entry) readReq := by
  unfold FormFails
  simp only [← tagInUse_iff]
  decide +kernel

/-- Slot 0 OFF, or with a disable requested, or UNBOUND in a RUNNING device. -/
def offState : State := State.reset.setSlot 0 (SlotRecord.fresh .off)
def closingDown : State := State.reset.setSlot 0 { SlotRecord.fresh .draining with disableReq := true }
def unboundState : State := running (SlotRecord.fresh .unbound)

theorem witness_FirstFailingCheck_slotOff :
    ¬FormFails readReq ∧ ¬TagTaken offState readReq ∧ SlotShut offState readReq ∧
      ¬TagTaken closingDown readReq ∧ SlotShut closingDown readReq := by
  unfold FormFails SlotShut
  simp only [← tagInUse_iff]
  decide +kernel

theorem witness_FirstFailingCheck_unboundSlot :
    ¬FormFails readReq ∧ ¬TagTaken unboundState readReq ∧ ¬SlotShut unboundState readReq ∧
      UnboundShut unboundState readReq := by
  unfold FormFails SlotShut UnboundShut Guarding
  simp only [← tagInUse_iff]
  decide +kernel

/-- Slot 0 with 4 REGULAR and 2 PRIORITY requests queued, of tags other than 3. -/
def fullQueues : State :=
  State.reset.setQueues 0
    { regular := [{ readReq with tag := 0 }, { readReq with tag := 1 }, { readReq with tag := 2 },
        { readReq with tag := 4 }]
      priority := [{ readReq with tag := 5, lane := .priority },
        { readReq with tag := 6, lane := .priority }] }

/-- Slot 0 with one place left in each queue. -/
def nearlyFull : State :=
  State.reset.setQueues 0
    { regular := [{ readReq with tag := 0 }, { readReq with tag := 1 }, { readReq with tag := 2 }]
      priority := [{ readReq with tag := 5, lane := .priority }] }

theorem witness_FirstFailingCheck_queueOverrun :
    ¬FormFails readReq ∧ ¬TagTaken fullQueues readReq ∧ ¬SlotShut fullQueues readReq ∧
      ¬UnboundShut fullQueues readReq ∧ QueueFull fullQueues readReq ∧
      QueueFull fullQueues { readReq with lane := .priority } := by
  unfold FormFails SlotShut UnboundShut Guarding QueueFull
  simp only [← tagInUse_iff]
  decide +kernel

theorem witness_FirstFailingCheck_passed :
    ¬FormFails readReq ∧ ¬TagTaken nearlyFull readReq ∧ ¬SlotShut nearlyFull readReq ∧
      ¬UnboundShut nearlyFull readReq ∧ ¬QueueFull nearlyFull readReq ∧
      ¬QueueFull nearlyFull { readReq with lane := .priority } := by
  unfold FormFails SlotShut UnboundShut Guarding QueueFull
  simp only [← tagInUse_iff]
  decide +kernel

theorem witness_AdmittedArrivalJoinsItsQueue :
    nearlyFull.resetHeld = false ∧ ¬FormFails readReq ∧ ¬TagTaken nearlyFull readReq ∧
      ¬SlotShut nearlyFull readReq ∧ ¬UnboundShut nearlyFull readReq ∧
      (nearlyFull.queues 0).regular.length < 4 ∧ (nearlyFull.queues 0).priority.length < 2 ∧
      4 ≤ (fullQueues.queues 0).regular.length ∧ 2 ≤ (fullQueues.queues 0).priority.length := by
  unfold FormFails SlotShut UnboundShut Guarding
  simp only [← tagInUse_iff]
  decide +kernel

theorem witness_PresentedRequestsArriveAtTheRelease :
    ({ State.reset with resetHeld := true } : State).resetHeld = true ∧
      State.reset.presented = [] ∧
      ({ State.reset with presented := [readReq] } : State).presented = readReq :: [] ∧
      exec (.requestArrival readReq) State.reset =
        .next (after (.requestArrival readReq) State.reset) := by
  refine ⟨rfl, rfl, rfl, ?_⟩
  rfl

theorem witness_CompletionsLeaveInTheOrderFormed :
    (State.reset.form (answerOf readReq .aborted)).completions = answerOf readReq .aborted :: [] ∧
      State.reset.completions = [] := ⟨rfl, rfl⟩

/-! Decode -/

/-- A request of slot 0 in a device in DIRECT, and under the watching window in RUNNING. -/
def direct : State := withReq State.reset readReq
def windowed (r : Request) : State := withReq (withWindow (running bound) window) r

theorem witness_RoundRobin_chosen : Chosen direct 0 readReq :=
  chosen_at_pointer (s := direct) (by decide +kernel) (by decide +kernel)

theorem witness_RoundRobin_none : ∀ i : Slot, ¬IsDecodable State.reset i := by
  simp only [← decodable_iff]
  decide +kernel

theorem witness_DirectDecodePassesThrough :
    Chosen direct 0 readReq ∧ direct.device = .direct ∧
      direct.tracker.length + granuleCount readReq.addr readReq.length ≤ 128 :=
  ⟨witness_RoundRobin_chosen, by decide +kernel, by decide +kernel⟩

theorem windowed_chosen (r : Request) (hr : r.initiator = 0 ∧ r.lane = .regular) :
    Chosen (windowed r) 0 r := by
  have hc : (windowed r).candidate 0 = some r := by
    rw [candidate_iff]
    refine Or.inr ⟨?_, rfl, ?_⟩
    · simp [windowed, withReq, Intake.push, Intake.empty, hr.2]
    · simp [windowed, withReq, Intake.push, Intake.empty, hr.2]
  refine chosen_at_pointer (s := windowed r) hc ?_
  unfold State.decodable
  have hp : (windowed r).pointer = 0 := rfl
  have hs : (windowed r).slotDecodes 0 = (running bound).slotDecodes 0 := rfl
  have ho : (windowed r).outstanding = [] := rfl
  rw [hp, hc, hs, ho, Option.isSome_some, Bool.and_true]
  decide +kernel

theorem windowed_list (r : Request) : (windowed r).committedList 0 = [window] := by
  have : (windowed r).committedList 0 = (withWindow (running bound) window).committedList 0 := rfl
  rw [this]
  decide +kernel

theorem windowed_binding (r : Request) : ((windowed r).slot 0).binding = some binding := by
  have : (windowed r).slot 0 = (running bound).slot 0 := rfl
  rw [this]
  decide +kernel

/-- A READ of two granules, the second at the window's last. -/
def longReq : Request := { readReq with addr := 0x1F80#40, length := 128 }

theorem witness_PermittedDecodeIssuesItsGranules :
    Chosen (windowed longReq) 0 longReq ∧ (windowed longReq).device = .running ∧
      ((windowed longReq).slot 0).binding = some binding ∧
      0 < granuleCount longReq.addr longReq.length ∧
      (∀ j < granuleCount longReq.addr longReq.length, DecidedBy (windowed longReq) 0 longReq j
        window) ∧
      window.port.memory = some .primary ∧ LaneOk window longReq ∧
      LevelOk window longReq binding.level ∧
      (∀ j < granuleCount longReq.addr longReq.length,
        ¬GuardStops (windowed longReq).root binding longReq
          (window.translate (firstByte longReq.addr j))) ∧
      BudgetAdmits (windowed longReq) longReq binding
        (if window.exempt then 0 else granuleCount longReq.addr longReq.length) ∧
      (windowed longReq).tracker.length + granuleCount longReq.addr longReq.length ≤ 128 ∧
      ¬(longReq.op = .write ∧ longReq.lane = .regular ∧ longReq.length = 8 ∧
        longReq.mask = List.replicate 8 true ∧ window.reqBase = longReq.addr ∧
        window.watch = true) := by
  refine ⟨windowed_chosen _ ⟨rfl, rfl⟩, rfl, windowed_binding _, by decide, ?_, rfl, ?_, ?_, ?_,
    ?_, by decide +kernel, by decide⟩
  · intro j hj
    have h2 : granuleCount longReq.addr longReq.length = 2 := by decide
    rw [h2] at hj
    refine decided_by_only (windowed_list _) ?_
    interval_cases j <;> decide
  · intro h; exact absurd h (by decide)
  · exact ⟨1, by decide, by decide⟩
  · intro j _ h; exact absurd h.1 (by decide)
  · intro _; exact Or.inl (by decide)

theorem witness_FirstMatchingWindowDecides :
    (windowed readReq).device ≠ .direct ∧ ((windowed readReq).slot 0).binding = some binding ∧
      DecidedBy (windowed readReq) 0 readReq 0 window ∧
      ∀ w ∈ (running bound).committedList 0, w.covers (granuleStart readReq.addr 0) = false := by
  refine ⟨by decide +kernel, windowed_binding _, decided_by_only (windowed_list _) (by decide), ?_⟩
  decide +kernel

/-- A window of level 0 that no lane but REGULAR may use, over a protected region. -/
def shut : Window := { window with readThr := .never, writeThr := .upTo 0 }
def guardRoot : RootCopy := { root with regionPages := 1 }

theorem witness_WindowChecksInOrder :
    ({ window with port := .hole } : Window).port = .hole ∧ window.port.memory = some .primary ∧
      ¬LaneOk window { readReq with lane := .priority } ∧ LaneOk window readReq ∧
      ¬LevelOk shut readReq binding.level ∧ LevelOk window writeReq binding.level ∧
      GuardStops (some guardRoot) binding writeReq (window.translate 0x1000) ∧
      GuardStops (some guardRoot) binding writeReq (window.translate 0x1FFF) ∧
      ¬GuardStops (some guardRoot) binding writeReq (window.translate 0x2000) ∧
      ¬GuardStops (some guardRoot) { binding with level := 0 } writeReq
        (window.translate 0x1000) := by
  refine ⟨rfl, rfl, ?_, ?_, ?_, ⟨1, by decide, by decide⟩, ?_, ?_, ?_, ?_⟩
  · intro h; exact absurd (h rfl).2 (by decide)
  · intro h; exact absurd h (by decide)
  · rw [← permits_iff]; decide
  all_goals
    rw [← guarded_iff]
    decide

/-- A WRITE of 256 bytes that touches five granules, more than the four left of a budget of six. -/
def bigReq : Request :=
  { writeReq with addr := 0x1020#40, length := 256, mask := List.replicate 256 true
                  data := List.replicate 256 0 }

theorem witness_DiscardedDecode_held :
    Chosen (windowed bigReq) 0 bigReq ∧ ((windowed bigReq).slot 0).binding = some binding ∧
      BudgetChecked (windowed bigReq) bigReq binding ∧
      binding.remaining < budgetCount bigReq (decodeRequest (windowed bigReq) 0 bigReq) ∧
      binding.remaining ≠ binding.epochBudget :=
  ⟨windowed_chosen _ ⟨rfl, rfl⟩, windowed_binding _, by decide +kernel, by decide +kernel, by decide⟩

/-- The DIRECT device with one tracker entry free and a request of two granules. -/
def crowded : State :=
  withReq { State.reset with tracker := List.replicate 127 { granule with flight := none } } longReq

theorem witness_DiscardedDecode_notTaken :
    Chosen crowded 0 longReq ∧
      (∀ b, (crowded.slot 0).binding = some b → crowded.device = .running →
        BudgetAdmits crowded longReq b (budgetCount longReq (decodeRequest crowded 0 longReq))) ∧
      128 - crowded.tracker.length < issuableCount (decodeRequest crowded 0 longReq) :=
  ⟨chosen_at_pointer (s := crowded) (by decide +kernel) (by decide +kernel),
    fun _ _ h => absurd h (by decide +kernel), by decide +kernel⟩

/-- A request that no window covers, and one that the window's level shuts out. -/
def farReq : Request := { readReq with addr := 0x5000#40 }

theorem witness_DeniedDecode_unmapped :
    Chosen (windowed farReq) 0 farReq ∧ (windowed farReq).device = .running ∧
      ((windowed farReq).slot 0).binding = some binding ∧
      0 < granuleCount farReq.addr farReq.length ∧
      (judgeGranule (windowed farReq) 0 farReq 0).outcome = .failed .unmapped :=
  ⟨windowed_chosen _ ⟨rfl, rfl⟩, rfl, windowed_binding _, by decide, by decide +kernel⟩

/-- A PRIORITY request of slot 0 under the watching window. -/
def fastReq : Request := { readReq with lane := .priority }

theorem witness_DeniedDecode_lane :
    Chosen (windowed fastReq) 0 fastReq ∧ ((windowed fastReq).slot 0).binding = some binding ∧
      ∀ j < granuleCount fastReq.addr fastReq.length,
        (judgeGranule (windowed fastReq) 0 fastReq j).outcome = .failed .lane :=
  ⟨chosen_at_pointer (s := windowed fastReq) (by decide +kernel) (by decide +kernel),
    windowed_binding _, by decide +kernel⟩

theorem witness_GuardedWriteIsNeverIssued : (windowed writeReq).device ≠ .direct := by
  decide +kernel

theorem witness_WatchedWriteIsCaptured :
    Chosen (windowed writeReq) 0 writeReq ∧ (windowed writeReq).device = .running ∧
      ((windowed writeReq).slot 0).binding = some binding ∧
      ((windowed writeReq).slot 0).pendingForce = none ∧ writeReq.op = .write ∧
      writeReq.lane = .regular ∧ writeReq.length = 8 ∧ writeReq.mask = List.replicate 8 true ∧
      DecidedBy (windowed writeReq) 0 writeReq 0 window ∧ window.reqBase = writeReq.addr ∧
      writeReq.addr.toNat % 4096 = 0 ∧ window.watch = true ∧ window.port = .primary ∧
      LevelOk window writeReq binding.level ∧
      ¬GuardStops (windowed writeReq).root binding writeReq window.tgtBase ∧
      BudgetAdmits (windowed writeReq) writeReq binding (if window.exempt then 0 else 1) ∧
      (windowed writeReq).tracker.length < 128 := by
  refine ⟨windowed_chosen _ ⟨rfl, rfl⟩, rfl, windowed_binding _, by decide +kernel, rfl, rfl, rfl,
    rfl, decided_by_only (windowed_list _) (by decide), rfl, by decide, rfl, rfl,
    ⟨1, by decide, by decide⟩, ?_, fun _ => Or.inl (by decide), by decide +kernel⟩
  rw [← guarded_iff]
  decide +kernel

/-! Ports -/

/-- An AUX and a PRIMARY granule that wait. -/
def waiting (p : MemPort) : State :=
  { State.reset with tracker := [{ granule with port := p, flight := none }] }

theorem waiting_oldest (p : MemPort) :
    OldestWaiting (waiting p) p [] { granule with port := p, flight := none } [] :=
  ⟨rfl, rfl, rfl, by simp⟩

theorem witness_AuxPortIssuesTheOldestGranule :
    (waiting .aux).resetHeld = false ∧
      OldestWaiting (waiting .aux) .aux [] { granule with port := .aux, flight := none } [] ∧
      (waiting .aux).aPool.next = some 0 ∧ NoneWaiting State.reset .aux ∧
      ({ State.reset.aPool with ids := Vector.replicate 256 .retired } : IdPool).next = none := by
  refine ⟨rfl, waiting_oldest _, by decide +kernel, ?_, by decide +kernel⟩
  intro x hx
  exact absurd hx (by simp [State.reset])

/-- A PRIMARY granule and a table operation that wait, the side served last given. -/
def contended (side : Side) : State :=
  { waiting .primary with
    tfu := { queue := [readOp 1 .gateRead 0 16], inFlight := none }, lastServed := side }

theorem witness_PrimaryPortAlternatesBetweenItsSides :
    (contended .table).resetHeld = false ∧
      OldestWaiting (contended .table) .primary [] { granule with flight := none } [] ∧
      (contended .table).pPool.next = some 0 ∧ (contended .table).lastServed = .table ∧
      Offers (contended .granule) (readOp 1 .gateRead 0 16) [] ∧
      (contended .granule).pPool.next = some 0 ∧ (contended .granule).lastServed = .granule ∧
      OffersNothing (waiting .primary) ∧ NoneWaiting State.reset .primary ∧
      OffersNothing State.reset ∧ TakesFrames (contended .granule) := by
  refine ⟨rfl, ⟨rfl, rfl, rfl, by simp⟩, by decide +kernel, rfl, ⟨rfl, rfl⟩, by decide +kernel, rfl,
    Or.inl rfl, ?_, Or.inl rfl, by unfold TakesFrames; decide +kernel⟩
  intro x hx
  exact absurd hx (by simp [State.reset])

/-- A slot at rest has no drain, and a device in DIRECT waits for no tracker. -/
theorem ends_nothing {s : State} (h : (s.slot 0).state = .unbound) (hd : s.device = .direct) :
    EndsNothing s 0 := by
  refine ⟨?_, ?_, ?_⟩ <;> simp [h, hd]

theorem granule_issued (s : State) (e : TrackerEntry) (o : Outstanding)
    (he : e.port = .primary ∧ e.flight = some { id := 9, time := 2 }) :
    GranuleIssued (withGranule s e o) .primary 9 [] e [] where
  split := rfl
  port := he.1
  issued := ⟨_, he.2, rfl⟩
  first := by simp
  inUse := by
    show (s.pPool.put 9 .inUse).get 9 = .inUse
    simp

theorem granule_entry (s : State) (e : TrackerEntry) (o : Outstanding)
    (h : o.slot = e.slot ∧ o.tag = e.tag) : EntryOf (withGranule s e o) e [] o [] :=
  ⟨rfl, h, by simp⟩

/-- The request of the granule with a second granule unsettled. -/
def entry2 : Outstanding :=
  { entry with
    length := 128
    granules := [{ outcome := .issuable 0x8000#40 .primary, settled := none },
      { outcome := .issuable 0x8040#40 .primary, settled := none }]
    data := List.replicate 128 0 }

theorem entry2_unsettled (st : RespStatus) : ∃ j, (entry2.settledAs 0 st).unsettledAt j :=
  ⟨1, 0x8040#40, .primary, rfl⟩

theorem entry_settled (st : RespStatus) : ¬∃ j, (entry.settledAs 0 st).unsettledAt j := by
  rw [← any_unsettled_iff]
  cases st <;> decide

theorem witness_OkResponseSettlesItsGranule :
    GranuleIssued (withGranule State.reset granule entry) .primary 9 [] granule [] ∧
      EntryOf (withGranule State.reset granule entry) granule [] entry [] ∧
      granule.watched = false ∧ EndsNothing (withGranule State.reset granule entry) 0 ∧
      (entry.op = .read → [1#8, 2, 3, 4, 5, 6, 7, 8].length = granule.count) ∧
      (¬∃ j, ({ entry.settledAs 0 .ok with data := [1#8, 2, 3, 4, 5, 6, 7, 8] } :
        Outstanding).unsettledAt j) ∧
      ∃ j, ({ entry2.settledAs 0 .ok with data := List.replicate 128 1 } :
        Outstanding).unsettledAt j :=
  ⟨granule_issued _ _ _ ⟨rfl, rfl⟩, granule_entry _ _ _ ⟨rfl, rfl⟩, rfl,
    ends_nothing (by decide +kernel) rfl, fun _ => rfl, entry_settled .ok, entry2_unsettled .ok⟩

theorem witness_ErrorResponseSettlesItsGranule :
    GranuleIssued (withGranule State.reset granule entry2) .primary 9 [] granule [] ∧
      EntryOf (withGranule State.reset granule entry2) granule [] entry2 [] ∧
      granule.watched = false ∧ EndsNothing (withGranule State.reset granule entry2) 0 ∧
      (∃ j, (entry2.settledAs 0 .error).unsettledAt j) ∧
      ¬∃ j, (entry.settledAs 0 .error).unsettledAt j :=
  ⟨granule_issued _ _ _ ⟨rfl, rfl⟩, granule_entry _ _ _ ⟨rfl, rfl⟩, rfl,
    ends_nothing (by decide +kernel) rfl, entry2_unsettled .error, entry_settled .error⟩

theorem witness_ExpiredGranuleSettlesAsError :
    GranuleIssued due .primary 9 [] granule [] ∧ EntryOf due granule [] entry [] ∧
      granule.watched = false ∧ EndsNothing due 0 ∧
      granule.flight = some { id := 9, time := 2 } ∧ due.mgmt.responseLimit ≠ 0 ∧
      2 + due.mgmt.responseLimit.toNat ≤ due.timer.now ∧ due.timer.running = false ∧
      ¬∃ j, (entry.settledAs 0 .error).unsettledAt j := by
  refine ⟨⟨rfl, rfl, ⟨_, rfl, rfl⟩, by simp, by decide +kernel⟩, ⟨rfl, ⟨rfl, rfl⟩, by simp⟩, rfl,
    ends_nothing (by decide +kernel) rfl, rfl, by decide +kernel, by decide +kernel, rfl,
    entry_settled .error⟩

theorem witness_CompletionStatusIsMerged :
    (∃ g ∈ (entry.settledAs 0 .error).granules, g.settled = some .error) ∧
      (∃ g ∈ [({ outcome := .failed .denied, settled := none } : OutGranule)],
        ∃ f, g.outcome = .failed f) ∧
      (entry.settledAs 0 .ok).completion.status = .ok ∧
      (entry.settledAs 0 .error).completion.status ≠ .ok :=
  ⟨⟨_, List.mem_singleton.mpr rfl, rfl⟩, ⟨_, List.mem_singleton.mpr rfl, _, rfl⟩, by decide,
    by decide⟩

theorem witness_ResponseWithoutItsOperationIsDiscarded :
    (State.reset.pool .primary).get 0 = .free ∧ (State.reset.pool .aux).get 255 = .free ∧
      (({ State.reset with pPool := State.reset.pPool.put 9 .retired } : State).pool
        .primary).get 9 = .retired := by decide +kernel

/-! Mailboxes and the switch sequence -/

/-- The watched write's granule, and the entry of its request. -/
def watchedGranule : TrackerEntry := { granule with op := .write, watched := true }
def writeEntry : Outstanding := { entry with op := .write, data := [] }

theorem switching_with {s : State} {r : SlotRecord} {st : SlotState} {sw : SwitchRec}
    (hr : s.root = some root) (hs : s.slot 0 = r) (h : r.state = st ∧ r.switch = some sw) :
    Switching s 0 st sw where
  state := by rw [hs]; exact h.1
  switch := by rw [hs]; exact h.2
  rooted := Or.inl (by rw [hr]; simp)

theorem switching_at (s : State) (st : SlotState) (sw : SwitchRec)
    (h : s.root = some root ∧ s.slot 0 = inStage st sw) : Switching s 0 st sw :=
  switching_with h.1 h.2 ⟨rfl, rfl⟩

/-- The commands that settle the granule of `withGranule`. -/
theorem granule_settles (s : State) (e : TrackerEntry) (o : Outstanding)
    (he : e.port = .primary ∧ e.flight = some { id := 9, time := 2 })
    (ho : o.slot = e.slot ∧ o.tag = e.tag) :
    (∀ data, (o.op = .read → data.length = e.count) → ∃ u,
      GranuleSettles (withGranule s e o) (.responseArrival .primary 9 .ok data) e [] .ok u) ∧
    (∃ u, GranuleSettles (withGranule s e o) (.responseArrival .primary 9 .error []) e [] .error
      u) ∧
    (LimitReached (withGranule s e o) 2 → ∃ u,
      GranuleSettles (withGranule s e o) (.responseLimitExpiry .primary 9) e [] .error u) := by
  have hg := granule_issued s e o he
  have hn := granule_entry s e o ho
  exact ⟨fun data hd => ⟨_, _, _, _, _, _, _, _, hg, hn, rfl, Or.inl ⟨data, rfl, rfl, hd, rfl⟩⟩,
    ⟨_, _, _, _, _, _, _, _, hg, hn, rfl, Or.inr (Or.inl ⟨rfl, rfl, rfl⟩)⟩,
    fun hl => ⟨_, _, _, _, _, _, _, _, hg, hn, rfl,
      Or.inr (Or.inr ⟨rfl, rfl, ⟨_, he.2, hl⟩, rfl⟩)⟩⟩

/-- The state with its timer stopped at 1002, 1000 microseconds after the issues of these tests. -/
def late (s : State) : State := { s with timer := { now := 1002, count := 0, running := false } }

/-- Slot 0 in DRAINING of a captured request of a kind, the watched write's outcome `w` so far. -/
def mailOf (k : SwitchKind) (w : WatchOutcome) : SwitchRec :=
  { mailSwitch with kind := k, watch := some w }

/-- Slot 0 in DRAINING of a switch, its record else `r`, with a granule of it issued. -/
def drainingWith (r : SlotRecord) (sw : SwitchRec) (e : TrackerEntry) (o : Outstanding) : State :=
  withGranule (late (running { r with state := .draining, switch := some sw })) e o

theorem drainingWith_slot (r : SlotRecord) (sw : SwitchRec) (e : TrackerEntry) (o : Outstanding) :
    (drainingWith r sw e o).slot 0 = { r with state := .draining, switch := some sw } :=
  State.slot_setSlot _ _ _

theorem drainingWith_switching (r : SlotRecord) (sw : SwitchRec) (e : TrackerEntry)
    (o : Outstanding) : Switching (drainingWith r sw e o) 0 .draining sw :=
  switching_with rfl (drainingWith_slot r sw e o) ⟨rfl, rfl⟩

/-- The slot's record `r` may hold any stack and binding, a requested disable and a pending force, and the
granule that settles last may be the watched one or another. -/
theorem witness_SettledMailboxWriteDecidesTheSwitch (r : SlotRecord) (k : SwitchKind)
    (w : WatchOutcome) :
    (∃ u, GranuleSettles (drainingWith r (mailOf k w) watchedGranule writeEntry)
      (.responseArrival .primary 9 .ok []) watchedGranule [] .ok u) ∧
      (∃ u, GranuleSettles (drainingWith r (mailOf k w) watchedGranule writeEntry)
        (.responseArrival .primary 9 .error []) watchedGranule [] .error u) ∧
      (∃ u, GranuleSettles (drainingWith r (mailOf k w) watchedGranule writeEntry)
        (.responseLimitExpiry .primary 9) watchedGranule [] .error u) ∧
      (∃ u, GranuleSettles (drainingWith r (mailOf k w) granule entry)
        (.responseArrival .primary 9 .ok [1, 2, 3, 4, 5, 6, 7, 8]) granule [] .ok u) ∧
      watchedGranule.watched = true ∧ granule.watched = false ∧
      Switching (drainingWith r (mailOf k w) watchedGranule writeEntry) 0 .draining (mailOf k w) ∧
      Switching (drainingWith r (mailOf k w) granule entry) 0 .draining (mailOf k w) ∧
      (mailOf k w).origin = .mailbox ∧ (mailOf k w).watch = some w ∧
      (∀ x ∈ ([] : List TrackerEntry), x.slot ≠ 0) ∧
      (drainingWith r (mailOf k w) granule entry).root = some root := by
  obtain ⟨h1, h2, h3⟩ := granule_settles
    (late (running { r with state := .draining, switch := some (mailOf k w) })) watchedGranule
    writeEntry ⟨rfl, rfl⟩ ⟨rfl, rfl⟩
  obtain ⟨h4, -, -⟩ := granule_settles
    (late (running { r with state := .draining, switch := some (mailOf k w) })) granule entry
    ⟨rfl, rfl⟩ ⟨rfl, rfl⟩
  have hl : LimitReached (drainingWith r (mailOf k w) watchedGranule writeEntry) 2 :=
    ⟨by show (1000#12) ≠ 0; decide, by show 2 + (1000#12).toNat ≤ 1002; decide,
      fun h => absurd h (by show ¬(false = true); decide)⟩
  exact ⟨h1 [] (fun h => absurd h (by decide)), h2, h3 hl, h4 _ (fun _ => rfl), rfl, rfl,
    drainingWith_switching _ _ _ _, drainingWith_switching _ _ _ _, rfl, rfl, by simp, rfl⟩

/-- The watched write's granule settles while another of the slot remains. -/
theorem witness_SettledMailboxWriteDecidesTheSwitch_remains :
    (∃ u, GranuleSettles
      { drainingWith bound (mailOf .call .pending) watchedGranule writeEntry with
        tracker := [watchedGranule, { granule with granule := 1, flight := none }] }
      (.responseArrival .primary 9 .ok []) watchedGranule
      [{ granule with granule := 1, flight := none }] .ok u) ∧
      Switching
        { drainingWith bound (mailOf .call .pending) watchedGranule writeEntry with
          tracker := [watchedGranule, { granule with granule := 1, flight := none }] } 0 .draining
        (mailOf .call .pending) ∧
      bound.pendingForce = none ∧ bound.binding = some binding ∧ bound.stack = [] ∧
      (2#8).toNat < root.dirLength ∧ root.dirLength ≤ (3#8).toNat ∧
      root.dirAddr.toNat / 8 * 8 + 8 * root.dirLength ≤ 2 ^ 40 :=
  ⟨⟨_, .primary, 9, [], _, [], writeEntry, [],
      ⟨rfl, rfl, ⟨_, rfl, rfl⟩, by simp, by decide +kernel⟩, ⟨rfl, ⟨rfl, rfl⟩, by simp⟩, rfl,
      Or.inl ⟨[], rfl, rfl, fun h => absurd h (by decide), rfl⟩⟩,
    switching_with rfl (drainingWith_slot _ _ watchedGranule writeEntry) ⟨rfl, rfl⟩, rfl, rfl, rfl,
    by decide, by decide, by decide⟩

theorem table_issued (s : State) (o : TableOp) (h : s.tracker = []) :
    TableIssued (withTable s o) 9 o where
  inFlight := ⟨2, rfl⟩
  inUse := by
    show (s.pPool.put 9 .inUse).get 9 = .inUse
    simp
  noGranule := by
    intro x hx
    have : x ∈ s.tracker := hx
    rw [h] at this
    exact absurd this (by simp)

/-- Slot 0 in a stage of the mailbox switch with a table operation in flight. -/
def switchState (st : SlotState) (sw : SwitchRec) (o : TableOp) : State :=
  withTable (running (inStage st sw)) o

theorem switchState_issued (st : SlotState) (sw : SwitchRec) (o : TableOp) :
    TableIssued (switchState st sw o) 9 o := table_issued _ _ rfl

theorem switchState_slot (st : SlotState) (sw : SwitchRec) (o : TableOp) :
    (switchState st sw o).slot 0 = inStage st sw := State.slot_setSlot _ _ _

theorem switchState_switching (st : SlotState) (sw : SwitchRec) (o : TableOp) :
    Switching (switchState st sw o) 0 st sw := switching_at _ _ _ ⟨rfl, State.slot_setSlot _ _ _⟩

/-- The hypotheses on the state of a switch's settlements hold in every device state, and whatever else
the slot's record holds: a requested disable, a pending force.  The root copy is there. -/
theorem witness_Switching (d : DeviceState) (r : SlotRecord) (sw : SwitchRec) (o : TableOp)
    (h : r.switch = some sw) :
    TableIssued { withTable (running r) o with device := d } 9 o ∧
      Switching { withTable (running r) o with device := d } 0 r.state sw ∧
      ({ withTable (running r) o with device := d } : State).device = d ∧
      ({ withTable (running r) o with device := d } : State).slot 0 = r :=
  have hs : ({ withTable (running r) o with device := d } : State).slot 0 = r :=
    State.slot_setSlot _ _ _
  have ht := table_issued (running r) o rfl
  ⟨⟨ht.inFlight, ht.inUse, ht.noGranule⟩, switching_with rfl hs ⟨rfl, h⟩, rfl, hs⟩

/-- The commands that settle the operation of `withTable` failed, and those that settle a write OK or
failed. -/
theorem table_fails (s : State) (o : TableOp) (h : s.tracker = [])
    (hl : s.mgmt.responseLimit = 1000#12) :
    TableFails (withTable s o) 9 o (.responseArrival .primary 9 .error []) .free ∧
      TableFails (withTable (late s) o) 9 o (.responseLimitExpiry .primary 9) .retired :=
  ⟨⟨table_issued _ _ h, Or.inl ⟨rfl, rfl⟩⟩,
    ⟨table_issued _ _ h, Or.inr ⟨rfl, rfl, _, rfl,
      by show s.mgmt.responseLimit ≠ 0; rw [hl]; decide,
      by show 2 + s.mgmt.responseLimit.toNat ≤ 1002; rw [hl]; decide,
      fun h => absurd h (by show ¬(false = true); decide)⟩⟩⟩

theorem write_settles (s : State) (o : TableOp) (h : s.tracker = []) (ho : o.op = .write) :
    WriteSettles (withTable s o) 9 o (.responseArrival .primary 9 .ok []) .free false ∧
      WriteSettles (withTable s o) 9 o (.responseArrival .primary 9 .error []) .free true :=
  ⟨Or.inl ⟨table_issued _ _ h, ho, rfl, rfl, rfl⟩,
    Or.inr ⟨⟨table_issued _ _ h, Or.inl ⟨rfl, rfl⟩⟩, rfl⟩⟩

/-- Directory entries: the low bytes of the list address, and the number of gates. -/
def directoryData (low count : Byte) : List Byte := [low, 0x30, 0, 0, 0, count, 0, 0]

theorem witness_GateEntryDecidesTheCall_directory :
    TableIssued (switchState .resolving mailSwitch (readOp 0 .directoryRead 0x2010 8)) 9
        (readOp 0 .directoryRead 0x2010 8) ∧
      Switching (switchState .resolving mailSwitch (readOp 0 .directoryRead 0x2010 8)) 0 .resolving
        mailSwitch ∧
      mailSwitch.gate = some { group := 2, entry := 5 } ∧ field (directoryData 0 0) 5 1 = 0 ∧
      128 < field (directoryData 0 129) 5 1 ∧ field (directoryData 8 128) 0 5 % 16 ≠ 0 ∧
      field (directoryData 0 5) 5 1 ≤ (5#8).toNat ∧ (5#8).toNat < field (directoryData 0 6) 5 1 ∧
      field (directoryData 0 128) 5 1 ≤ 128 ∧ 1 ≤ field (directoryData 0 1) 5 1 ∧
      field (directoryData 0 6) 0 5 % 16 = 0 ∧
      field (directoryData 0 6) 0 5 + 16 * field (directoryData 0 6) 5 1 ≤ 2 ^ 40 :=
  ⟨switchState_issued _ _ _, switchState_switching _ _ _, rfl, by decide, by decide, by decide,
    by decide, by decide, by decide, by decide, by decide, by decide⟩

/-- Slot 0 in RESOLVING under a binding without KEEP. -/
def keepless : State :=
  withTable (running { inStage .resolving mailSwitch with
    binding := some { binding with keep := false } }) (readOp 0 .gateRead 0x3050 16)

theorem witness_GateEntryDecidesTheCall_keepClear :
    TableIssued keepless 9 (readOp 0 .gateRead 0x3050 16) ∧
      Switching keepless 0 .resolving mailSwitch ∧
      (keepless.slot 0).binding = some { binding with keep := false } := by
  have hs : keepless.slot 0 =
      { inStage .resolving mailSwitch with binding := some { binding with keep := false } } :=
    State.slot_setSlot _ _ _
  exact ⟨table_issued _ _ rfl, switching_with rfl hs ⟨rfl, rfl⟩, by rw [hs]⟩

/-- A force CALL in RESOLVING. -/
theorem witness_GateEntryDecidesTheCall_force (o : TableOp) :
    TableIssued (switchState .resolving (forceRecord .call (some { group := 2, entry := 5 })) o) 9 o ∧
      Switching (switchState .resolving (forceRecord .call (some { group := 2, entry := 5 })) o) 0
        .resolving (forceRecord .call (some { group := 2, entry := 5 })) ∧
      (forceRecord .call none).origin = .force ∧ (forceRecord .call none).kind = .call ∧
      mailSwitch.origin = .mailbox :=
  ⟨switchState_issued _ _ _, switchState_switching _ _ _, rfl, rfl, rfl⟩

/-- Gate entries: VALID, TRANSFER, ceiling, entry level and target. -/
def gateData (flags levels : Byte) : List Byte :=
  [flags, levels, 0, 0, 0, 0, 0, 0, 0xC0, 0, 0, 0, 0, 0, 0, 0]

theorem witness_GateEntryDecidesTheCall :
    TableIssued (switchState .resolving mailSwitch (readOp 0 .gateRead 0x3050 16)) 9
        (readOp 0 .gateRead 0x3050 16) ∧
      Switching (switchState .resolving mailSwitch (readOp 0 .gateRead 0x3050 16)) 0 .resolving
        mailSwitch ∧
      mailSwitch.kind = .call ∧
      ((switchState .resolving mailSwitch (readOp 0 .gateRead 0x3050 16)).slot 0).binding =
        some binding ∧
      binding.keep = true ∧ (gateData 1 0x21).length = 16 ∧
      (byteAt (gateData 1 0x21) 0).getLsbD 0 = true ∧
      (byteAt (gateData 0 0x21) 0).getLsbD 0 = false ∧
      (byteAt (gateData 1 0x21) 0).getLsbD 1 = false ∧
      (byteAt (gateData 3 0x21) 0).getLsbD 1 = true ∧
      (byteAt (gateData 1 0x21) 1).toNat % 4 = 1 ∧ (byteAt (gateData 1 0x20) 1).toNat % 4 = 0 ∧
      (byteAt (gateData 1 0x21) 1).toNat / 16 % 4 = 2 ∧ binding.level = 1 ∧
      ((switchState .resolving mailSwitch (readOp 0 .gateRead 0x3050 16)).slot 0).stack.length < 8 :=
  ⟨switchState_issued _ _ _, switchState_switching _ _ _, rfl,
    by rw [switchState_slot]; rfl, rfl, rfl, by decide, by decide, by decide, by decide, by decide,
    by decide, by decide, rfl, by rw [switchState_slot]; decide⟩

/-- Slot 0 in RESOLVING with eight callers on its stack. -/
def deepState : State :=
  withTable (running { inStage .resolving mailSwitch with
    stack := List.replicate 8 { record := 0x100#40, level := 0 } }) (readOp 0 .gateRead 0x3050 16)

theorem witness_GateEntryDecidesTheCall_stackFull :
    TableIssued deepState 9 (readOp 0 .gateRead 0x3050 16) ∧
      Switching deepState 0 .resolving mailSwitch ∧ 8 ≤ (deepState.slot 0).stack.length := by
  have hs : deepState.slot 0 = { inStage .resolving mailSwitch with
      stack := List.replicate 8 { record := 0x100#40, level := 0 } } := State.slot_setSlot _ _ _
  exact ⟨table_issued _ _ rfl, switching_with rfl hs ⟨rfl, rfl⟩, by rw [hs]; decide⟩

/-- A context record without saved counts: its flags byte and the low byte of its list address. -/
def recordData (flags list : Byte) : List Byte :=
  [0xA1, 0xC7, flags, 0, 6, 0, 0, 0, list, 0, 0, 0, 0, 0, 0, 0] ++ List.replicate 48 0

/-- The mailbox switch with its target record, and a switch of any origin and kind so. -/
def targeted : SwitchRec := { mailSwitch with target := some 0xC0#40, level := some 2 }
def targetedAs (k : SwitchKind) (o : Origin) : SwitchRec := { targeted with kind := k, origin := o }

theorem witness_RecordReadIsChecked_saved (k : SwitchKind) (o : Origin) :
    TableIssued (switchState .saving (targetedAs k o) (savedOp 0 binding)) 9 (savedOp 0 binding) ∧
      Switching (switchState .saving (targetedAs k o) (savedOp 0 binding)) 0 .saving
        (targetedAs k o) ∧
      (targetedAs k o).target = some 0xC0#40 ∧
      ¬(switchState .saving targeted (savedOp 0 binding)).recordBusy 0xC0#40 ∧
      (State.recordBusy
        { State.reset with map := [{ record := 0xC0#40, slot := 1, role := .active }] } 0xC0#40) :=
  ⟨switchState_issued _ _ _, switchState_switching _ _ _, rfl, by decide +kernel, by decide +kernel⟩

/-- A switch of any kind and origin, in LOADING or BINDING. -/
theorem witness_RecordReadIsChecked_extension (st : SlotState) (k : SwitchKind) (o : Origin) :
    TableIssued (switchState st { targetedAs k o with loaded := some (parseRecord []) }
        (readOp 0 .extensionRead 0x100 16)) 9 (readOp 0 .extensionRead 0x100 16) ∧
      Switching (switchState st { targetedAs k o with loaded := some (parseRecord []) }
        (readOp 0 .extensionRead 0x100 16)) 0 st
        { targetedAs k o with loaded := some (parseRecord []) } :=
  ⟨switchState_issued _ _ _, switchState_switching _ _ _⟩

theorem witness_RecordReadIsChecked (st : SlotState) (k : SwitchKind) (o : Origin) :
    TableIssued (switchState st (targetedAs k o) (readOp 0 .recordRead 0xC0 64)) 9
        (readOp 0 .recordRead 0xC0 64) ∧
      Switching (switchState st (targetedAs k o) (readOp 0 .recordRead 0xC0 64)) 0 st
        (targetedAs k o) ∧
      (targetedAs k o).target = some 0xC0#40 ∧
      (∀ f l, (recordData f l).length = 64) ∧
      field (0 :: (recordData 4 8).tail) 0 2 ≠ 0xC7A1 ∧ field (recordData 4 9) 8 5 % 8 ≠ 0 ∧
      field (recordData 4 8) 0 2 = 0xC7A1 ∧ field (recordData 4 8) 8 5 % 8 = 0 ∧
      (byteAt (recordData 4 8) 2).getLsbD 2 = true ∧
      (byteAt (recordData 0 8) 2).getLsbD 2 = false ∧ (0xC0#40).toNat + 64 < 2 ^ 40 :=
  ⟨switchState_issued _ _ _, switchState_switching _ _ _, rfl, fun _ _ => rfl, by decide +kernel,
    by decide +kernel, by decide +kernel, by decide +kernel, by decide +kernel, by decide +kernel,
    by decide⟩

/-- A loaded record: FRESH or not, KEEP set, and the cursor of a list at the header address `h`. -/
def loaded (flags : Byte) : Loaded := parseRecord (recordData flags 8)
def listSwitch (flags : Byte) (h : Addr) (count index : Nat) : SwitchRec :=
  { targeted with
    loaded := some (loaded flags), cursor := some { header := h, count := count, index := index } }
def listSwitchAs (k : SwitchKind) (o : Origin) (flags : Byte) (h : Addr) (count index : Nat) :
    SwitchRec :=
  { listSwitch flags h count index with kind := k, origin := o }

/-- The header of the loaded record, which stands at the bits that the record's bytes give. -/
theorem witness_RecordReadIsChecked_header :
    (loaded 1).header = BitVec.ofNat 64 (field (recordData 1 8) 0 8) ∧
      8 ≤ (recordData 1 8).length ∧ (loaded 1).fresh = true ∧ (loaded 2).keep = true ∧
      (loaded 4).ext = true ∧ (loaded 0x31).initialLevel = 3 ∧ (loaded 1).epochBudget = 6 := by
  decide +kernel

theorem witness_WindowListIsReadRunByRun_header (st : SlotState) (k : SwitchKind) (o : Origin)
    (h : Addr) :
    TableIssued (switchState st (listSwitchAs k o 2 h 0 0) (readOp 0 .runHeaderRead h 8)) 9
        (readOp 0 .runHeaderRead h 8) ∧
      Switching (switchState st (listSwitchAs k o 2 h 0 0) (readOp 0 .runHeaderRead h 8)) 0 st
        (listSwitchAs k o 2 h 0 0) ∧
      (listSwitchAs k o 2 h 0 0).loaded = some (loaded 2) ∧
      (listSwitchAs k o 2 h 0 0).target = some 0xC0#40 ∧
      (listSwitchAs k o 2 h 0 0).cursor = some { header := h, count := 0, index := 0 } :=
  ⟨switchState_issued _ _ _, switchState_switching _ _ _, rfl, rfl, rfl⟩

/-- Run headers of 32 and of 33 descriptors, before a list with none staged; a first descriptor that
ends at a page's end, and one that would pass it. -/
theorem witness_WindowListIsReadRunByRun_counts :
    field ((32 : Byte) :: List.replicate 7 0) 0 1 = 32 ∧
      field ((33 : Byte) :: List.replicate 7 0) 0 1 = 33 ∧
      (switchState .loading (listSwitch 2 8 0 0) (readOp 0 .runHeaderRead 8 8)).stagedCount 0 = 0 ∧
      ((0x2FE8#40).toNat + 8) % 4096 + 16 ≤ 4096 ∧ 4096 < ((0x2FF0#40).toNat + 8) % 4096 + 16 ∧
      (0x2FE8#40).toNat + 8 < 2 ^ 40 := by
  decide +kernel

/-- A descriptor of one page at 1000h, and one of no page. -/
def windowData (pages : Byte) : List Byte :=
  [0x00, 0x10, 0, 0, 0, 0x11, 0x01, 0, 0x00, 0x80, 0, 0, 0, pages, 0, 0]

/-- A descriptor of one page with these thresholds and flags. -/
def windowWith (thresholds flags : Byte) : List Byte :=
  [0x00, 0x10, 0, 0, 0, thresholds, flags, 0, 0x00, 0x80, 0, 0, 0, 1, 0, 0]

/-- Threshold codes at 3, 4 and 7, and every port. -/
theorem witness_WindowListIsReadRunByRun_fields :
    (parseWindow (windowWith 0x34 0x51)).map (fun w => (w.readThr, w.writeThr)) =
        some (.never, .upTo 3) ∧
      (parseWindow (windowWith 0x73 0x20)).map (fun w => (w.readThr, w.writeThr)) =
        some (.upTo 3, .never) ∧
      (byteAt (windowWith 0x34 0x51) 5).toNat % 8 = 4 ∧
      (byteAt (windowWith 0x34 0x51) 5).toNat / 16 % 8 = (3 : Level).val ∧
      (byteAt (windowWith 0x73 0x20) 5).toNat / 16 % 8 = 7 ∧
      (parseWindow (windowWith 0x11 0x51)).map (·.port) = some .primary ∧
      (parseWindow (windowWith 0x11 0x20)).map (·.port) = some .hole ∧
      (parseWindow (windowWith 0x11 0x02)).map (·.port) = some .aux ∧
      parseWindow (windowWith 0x11 0x03) = none ∧ parseWindow (windowWith 0x11 0x12) = none := by
  decide +kernel

/-- The next descriptor of a run at 2FE0h would cross a page, and the one of a run at 8 would not. -/
theorem witness_WindowListIsReadRunByRun_crosses :
    0 + 1 < 2 ∧ ((0x2FE0#40).toNat + 8) % 4096 + 16 ≤ 4096 ∧
      4096 < ((0x2FE0#40).toNat + 8 + 16 * (0 + 1)) % 4096 + 16 := by decide

theorem witness_WindowListIsReadRunByRun_descriptor (st : SlotState) (k : SwitchKind)
    (o : Origin) :
    TableIssued (switchState st (listSwitchAs k o 2 8 2 0) (readOp 0 .descriptorRead 16 16)) 9
        (readOp 0 .descriptorRead 16 16) ∧
      Switching (switchState st (listSwitchAs k o 2 8 2 0) (readOp 0 .descriptorRead 16 16)) 0 st
        (listSwitchAs k o 2 8 2 0) ∧
      (windowData 1).length = 16 ∧ parseWindow (windowData 0) = none ∧
      (parseWindow (windowData 1)).isSome = true ∧
      (switchState .loading (listSwitch 2 8 2 0) (readOp 0 .descriptorRead 16 16)).cache[(0 : Fin 256)] =
        .free ∧
      (∀ j : Fin 256, j < 0 → (switchState .loading (listSwitch 2 8 2 0)
        (readOp 0 .descriptorRead 16 16)).cache[j] ≠ .free) ∧
      0 + 1 < 2 ∧ ((8#40).toNat + 8 + 16 * (0 + 1)) % 4096 + 16 ≤ 4096 ∧ 2 ≤ 1 + 1 ∧
      (8#40).toNat + 8 + 16 * 2 < 2 ^ 40 :=
  ⟨switchState_issued _ _ _, switchState_switching _ _ _, rfl, by decide +kernel, by decide +kernel,
    by decide +kernel, fun j hj => absurd hj (by simp), by decide, by decide, by decide, by decide⟩

/-- Every window cache entry taken. -/
def fullCache : State :=
  { switchState .loading (listSwitch 2 8 2 0) (readOp 0 .descriptorRead 16 16) with
    cache := Vector.replicate 256 (.committed 1 0 window) }

theorem witness_WindowListIsReadRunByRun_cacheFull :
    TableIssued fullCache 9 (readOp 0 .descriptorRead 16 16) ∧
      Switching fullCache 0 .loading (listSwitch 2 8 2 0) ∧
      ∀ k : Fin 256, fullCache.cache[k] ≠ .free := by
  refine ⟨⟨⟨2, rfl⟩, by decide +kernel,
      by simp [fullCache, switchState, withTable, running, State.reset]⟩,
    switching_at _ _ _ ⟨rfl, State.slot_setSlot _ _ _⟩, ?_⟩
  intro k
  simp [fullCache]

/-- The binding that the commit of the loaded record sets: FRESH, or KEEP without FRESH. -/
def freshBinding : Binding :=
  { record := 0xC0#40, level := 2, epochBudget := 6, remaining := 6, denials := 0, switchIns := 1,
    fill := 0x11223344#32, keep := false }
def keptBinding : Binding := { freshBinding with remaining := 0, keep := true }

/-- A switch of a kind and origin at the end of its load. -/
def ending (k : SwitchKind) (o : Origin) (transfer : Bool) (flags : Byte) : SwitchRec :=
  { listSwitch flags 8 0 0 with kind := k, origin := o, transfer := transfer }

theorem witness_CommitReplacesTheBindingAtOnce (k : SwitchKind) (o : Origin) (transfer : Bool)
    (flags : Byte) (st : SlotState) :
    TableIssued (switchState st (ending k o transfer flags) (readOp 0 .runHeaderRead 8 8)) 9
        (readOp 0 .runHeaderRead 8 8) ∧
      Switching (switchState st (ending k o transfer flags) (readOp 0 .runHeaderRead 8 8)) 0 st
        (ending k o transfer flags) ∧
      (ending k o transfer flags).level = some 2 ∧
      (ending k o transfer flags).loaded = some (loaded flags) ∧
      (ending k o transfer flags).target = some 0xC0#40 ∧
      (switchState st (ending k o transfer flags) (readOp 0 .runHeaderRead 8 8)).root = some root ∧
      ((switchState st (ending k o transfer flags) (readOp 0 .runHeaderRead 8 8)).slot 0).binding =
        some binding ∧
      field (List.replicate 8 0) 0 1 = 0 :=
  ⟨switchState_issued _ _ _, switchState_switching _ _ _, rfl, rfl, rfl, rfl,
    by rw [switchState_slot]; rfl, by decide⟩

theorem witness_NewBinding :
    NewBinding root (loaded 2) 0xC0#40 2 keptBinding ∧
      NewBinding root (loaded 1) 0xC0#40 2 freshBinding ∧
      NewBinding root (loaded 2) 0xC0#40 ((loaded 2).header.extractLsb' 20 2).toFin
        { keptBinding with level := 0 } ∧
      (loaded 2).fresh = false ∧ (loaded 1).fresh = true := by
  refine ⟨⟨rfl, rfl, ?_, ?_, ?_, ?_⟩, ⟨rfl, rfl, ?_, ?_, ?_, ?_⟩,
    ⟨rfl, by decide +kernel, ?_, ?_, ?_, ?_⟩, by decide +kernel, by decide +kernel⟩
  all_goals first
    | decide +kernel
    | (unfold Loaded.Counts; decide +kernel)

/-- The last boot binding of a STARTING device at the end of its load, and a switch of a QUIESCING one. -/
theorem witness_CommitReplacesTheBindingAtOnce_devices :
    Switching
      { switchState .binding (ending .bind .bind false 1) (readOp 0 .runHeaderRead 8 8) with
        device := .starting } 0 .binding (ending .bind .bind false 1) ∧
      Switching
        { switchState .loading (ending .call .mailbox false 2) (readOp 0 .runHeaderRead 8 8) with
          device := .quiescing } 0 .loading (ending .call .mailbox false 2) :=
  ⟨(witness_Switching .starting (inStage .binding (ending .bind .bind false 1)) _ _ rfl).2.1,
    (witness_Switching .quiescing (inStage .loading (ending .call .mailbox false 2)) _ _ rfl).2.1⟩

/-- A RETURN to the caller at 100h, at the end of its load. -/
def returnSwitch : SwitchRec :=
  { listSwitch 2 8 0 0 with kind := .ret, target := some 0x100#40, level := some 0 }
def returnState : State :=
  withTable (running { inStage .loading returnSwitch with stack := [{ record := 0x100#40, level := 0 }] })
    (readOp 0 .runHeaderRead 8 8)

theorem witness_ReturnPopsTheStack :
    TableIssued returnState 9 (readOp 0 .runHeaderRead 8 8) ∧
      Switching returnState 0 .loading returnSwitch ∧
      returnSwitch.kind = .ret ∧ returnSwitch.loaded = some (loaded 2) ∧
      returnState.root = some root ∧
      (returnState.slot 0).stack = { record := 0x100#40, level := 0 } :: [] ∧
      NewBinding root (loaded 2) 0x100#40 0 { keptBinding with record := 0x100#40, level := 0 } := by
  have hs : returnState.slot 0 =
      { inStage .loading returnSwitch with stack := [{ record := 0x100#40, level := 0 }] } :=
    State.slot_setSlot _ _ _
  obtain ⟨⟨-, -, h1, h2, h3, h4⟩, -⟩ := witness_NewBinding
  exact ⟨table_issued _ _ rfl, switching_with rfl hs ⟨rfl, rfl⟩, rfl, rfl, rfl, by rw [hs],
    ⟨rfl, rfl, h1, h2, h3, h4⟩⟩

theorem witness_FailedReadFailsTheSwitch (o : TableOp) (ho : o.owner = some 0) (st : SlotState)
    (sw : SwitchRec) :
    TableFails (switchState st sw o) 9 o (.responseArrival .primary 9 .error []) .free ∧
      TableFails (withTable (late (running (inStage st sw))) o) 9 o
        (.responseLimitExpiry .primary 9) .retired ∧
      o.owner = some 0 ∧ Switching (switchState st sw o) 0 st sw ∧
      Switching (withTable (late (running (inStage st sw))) o) 0 st sw :=
  ⟨(table_fails _ _ rfl rfl).1, (table_fails _ _ rfl rfl).2, ho, switchState_switching _ _ _,
    switching_at _ _ _ ⟨rfl, State.slot_setSlot _ _ _⟩⟩

/-- The saved-area write of a CALL with KEEP: an ERROR response, and the expiry. -/
theorem witness_FailedReadFailsTheSwitch_saved :
    TableFails (switchState .saving targeted (savedOp 0 binding)) 9 (savedOp 0 binding)
        (.responseArrival .primary 9 .error []) .free ∧
      TableFails (withTable (late (running (inStage .saving targeted))) (savedOp 0 binding)) 9
        (savedOp 0 binding) (.responseLimitExpiry .primary 9) .retired ∧
      (savedOp 0 binding).what = .savedWrite ∧ (savedOp 0 binding).owner = some 0 :=
  ⟨(table_fails _ _ rfl rfl).1, (table_fails _ _ rfl rfl).2, rfl, rfl⟩

/-- The result write of the mailbox switch, and the header write-back before it. -/
def resultWrite : TableOp := resultOp 0 0x8000#40 .done 1 0x77#16
def headerWrite : TableOp := headerOp 0 0xC0#40 0

theorem witness_MailboxSwitchEndsAtItsResultWrite (sw : SwitchRec) :
    WriteSettles (switchState .closing sw resultWrite) 9 resultWrite
        (.responseArrival .primary 9 .ok []) .free false ∧
      WriteSettles (switchState .closing sw headerWrite) 9 headerWrite
        (.responseArrival .primary 9 .error []) .free true ∧
      resultWrite.owner = some 0 ∧ headerWrite.owner = some 0 ∧ resultWrite.what = .resultWrite ∧
      headerWrite.what = .headerWrite ∧
      Switching (switchState .closing sw resultWrite) 0 .closing sw :=
  ⟨(write_settles _ _ rfl rfl).1, (write_settles _ _ rfl rfl).2, rfl, rfl, rfl, rfl,
    switchState_switching _ _ _⟩

/-- A failed force REBIND that holds a preempted mailbox request, in CLOSING, with a CALL pending behind it
or a disable requested. -/
def preempting : SwitchRec :=
  { forceRecord .rebind none with
    result := some .tableError, preempted := some { target := 0x8000#40, seqTag := 0x77#16 } }
def preemptingSlot (f : Option PendingForce) (d : Bool) : SlotRecord :=
  { inStage .closing preempting with pendingForce := f, disableReq := d }

theorem witness_MailboxSwitchEndsAtItsResultWrite_preempted (d : DeviceState)
    (f : Option PendingForce) (x : Bool) :
    Switching { withTable (running (preemptingSlot f x)) resultWrite with device := d } 0 .closing
        preempting ∧
      preempting.endsIn = .unbound ∧ (preemptingSlot f x).pendingForce = f ∧
      (preemptingSlot f x).disableReq = x :=
  ⟨(witness_Switching d (preemptingSlot f x) preempting resultWrite rfl).2.1, rfl, rfl, rfl⟩

/-- What that slot comes to: UNBOUND with the CALL's NOT_BOUND reported last, or OFF. -/
theorem test_preemptedEnds :
    ((after (.responseArrival .primary 9 .ok [])
        (withTable (running (preemptingSlot (some (.call { group := 2, entry := 5 })) false))
          resultWrite)).slot 0).lastForce = some .notBound ∧
      ((after (.responseArrival .primary 9 .ok [])
        (withTable (running (preemptingSlot none true)) resultWrite)).slot 0).state = .off ∧
      ((after (.responseArrival .primary 9 .ok [])
        (withTable (running (preemptingSlot none false)) resultWrite)).slot 0).lastForce =
        some .tableError := by
  decide +kernel

/-! Start, epochs and quiesce -/

theorem witness_StartIsTakenInDirectOnly :
    TakesFrames State.reset ∧ State.reset.device = .direct ∧ State.reset.resetHeld = false ∧
      State.reset.root = none ∧ State.reset.tracker = [] ∧
      (withGranule State.reset granule entry).tracker ≠ [] ∧ (running bound).device ≠ .direct := by
  unfold TakesFrames
  decide +kernel

/-- A device that waits in STARTING, or in QUIESCING, for the granules of slot 0. -/
def waitingFor (d : DeviceState) : State :=
  withGranule { State.reset with device := d } granule entry

theorem witness_StartIsTakenInDirectOnly_settles (d : DeviceState) :
    (∃ u, GranuleSettles (waitingFor d)
      (.responseArrival .primary 9 .ok [1, 2, 3, 4, 5, 6, 7, 8]) granule [] .ok u) ∧
      (∃ u, GranuleSettles (waitingFor d) (.responseArrival .primary 9 .error []) granule [] .error
        u) ∧
      granule.watched = false ∧ ((waitingFor d).slot 0).state ≠ .draining ∧
      (waitingFor d).device = d ∧ (waitingFor d).root = none ∧ (waitingFor d).tfu.queue = [] ∧
      (waitingFor d).tfu.inFlight = none ∧ ∀ i : Slot, ((waitingFor d).slot i).switch = none := by
  obtain ⟨h1, h2, -⟩ := granule_settles { State.reset with device := d } granule entry ⟨rfl, rfl⟩
    ⟨rfl, rfl⟩
  have hs : ∀ i : Slot, (State.reset.slot i).state ≠ .draining ∧ (State.reset.slot i).switch = none := by
    decide +kernel
  exact ⟨h1 _ (fun _ => rfl), h2, rfl, (hs 0).1, rfl, rfl, rfl, rfl, fun i => (hs i).2⟩

/-- The STARTING device with its root record read in flight. -/
def startingState : State :=
  withTable { State.reset with device := .starting } (rootRead 0)

/-- A root record: its tag's low byte, directory length, region base bits 8..15 and size, boot binding
of slot 0. -/
def rootData (tag len region pages boot : Byte) : List Byte :=
  [tag, 0x52, len, 0, 10, 0, 0, 0, 0, 0x20, 0, 0, 0, 0, 0, 0, 0x44, 0x33, 0x22, 0x11, pages, 0, 0, 0, 0,
    region, 0, 0, 0, 0, 0, 0] ++ [boot] ++ List.replicate 127 0

theorem starting_issued : TableIssued startingState 9 (rootRead 0) := table_issued _ _ rfl

theorem witness_FailedRootCheckEndsTheStart_failed :
    TableFails startingState 9 (rootRead 0) (.responseArrival .primary 9 .error []) .free ∧
      TableFails (withTable (late { State.reset with device := .starting }) (rootRead 0)) 9
        (rootRead 0) (.responseLimitExpiry .primary 9) .retired :=
  table_fails { State.reset with device := .starting } (rootRead 0) rfl rfl

theorem witness_FailedRootCheckEndsTheStart :
    TableIssued startingState 9 (rootRead 0) ∧ (rootRead 0).owner = none ∧
      (rootRead 0).op = .read ∧ (rootRead 0).length = 160 ∧
      (rootData 0xA7 3 0x80 1 0x80).length = 160 ∧ startingState.device = .starting ∧
      field (rootData 0xA6 3 0x80 1 0x80) 0 2 ≠ 0x52A7 ∧
      field (rootData 0xA7 3 0x80 1 0x80) 0 2 = 0x52A7 ∧
      field (rootData 0xA7 0 0x80 1 0x80) 2 1 = 0 ∧ 64 < field (rootData 0xA7 65 0x80 1 0x80) 2 1 ∧
      field (rootData 0xA7 64 0x80 1 0x80) 2 1 = 64 ∧ field (rootData 0xA7 1 0x80 1 0x80) 2 1 = 1 ∧
      field (rootData 0xA7 64 0x80 1 0x80) 8 5 / 8 * 8 + 8 * 64 ≤ 2 ^ 40 ∧
      field (rootData 0xA7 3 0x81 1 0x80) 20 4 ≠ 0 ∧
      field (rootData 0xA7 3 0x81 1 0x80) 24 5 % 4096 ≠ 0 :=
  ⟨starting_issued, rfl, rfl, rfl, by decide +kernel, rfl, by decide +kernel, by decide +kernel,
    by decide +kernel, by decide +kernel, by decide +kernel, by decide +kernel, by decide +kernel,
    by decide +kernel, by decide +kernel⟩

theorem witness_PassedRootWithoutBootBindingsEntersRunning :
    TableIssued startingState 9 (rootRead 0) ∧ RootPasses (rootData 0xA7 3 0x80 1 0) ∧
      (∀ i : Slot, startingState.mgmt.slotEnable.getLsbD i.val = true →
        field (rootData 0xA7 3 0x80 1 0) (32 + 8 * i.val) 5 = 0) ∧
      ∀ i : Slot, ∀ sw, (startingState.slot i).switch = some sw → sw.origin ≠ .bind := by
  refine ⟨starting_issued, by unfold RootPasses; decide +kernel, by decide +kernel, ?_⟩
  intro i sw h
  have hn : ∀ i : Slot, (startingState.slot i).switch = none := by decide +kernel
  rw [hn i] at h
  exact absurd h (by simp)

theorem witness_BootBindingClaimsItsRecord :
    TableIssued startingState 9 (rootRead 0) ∧ RootPasses (rootData 0xA7 3 0x80 0 0x80) ∧
      (∀ j : Slot, startingState.mgmt.slotEnable.getLsbD j.val = true →
        (field (rootData 0xA7 3 0x80 0 0x80) (32 + 8 * j.val) 5 ≠ 0 ↔ j = 0)) ∧
      startingState.mgmt.slotEnable.getLsbD 0 = true ∧
      field (rootData 0xA7 3 0x80 0 0x80) (32 + 8 * 0) 5 % 64 = 0 ∧ startingState.map = [] := by
  refine ⟨starting_issued, by unfold RootPasses; decide +kernel, by decide +kernel,
    by decide +kernel, by decide +kernel, rfl⟩

/-- A misaligned boot record, and one that slot 1 holds in the binding map. -/
def mappedState : State :=
  withTable
    { State.reset with
      device := .starting, map := [{ record := 0x80#40, slot := 1, role := .active }] }
    (rootRead 0)

theorem witness_BootBindingClaimsItsRecord_unbound :
    RootPasses (rootData 0xA7 3 0x80 0 0x81) ∧
      (∀ j : Slot, startingState.mgmt.slotEnable.getLsbD j.val = true →
        (field (rootData 0xA7 3 0x80 0 0x81) (32 + 8 * j.val) 5 ≠ 0 ↔ j = 0)) ∧
      (∀ c : RootCopy, RootCopyOf (rootData 0xA7 3 0x80 0 0x81) c →
        c.boot[(0 : Slot)].toNat % 64 ≠ 0) ∧
      TableIssued mappedState 9 (rootRead 0) ∧ mappedState.device = .starting ∧
      mappedState.mgmt = startingState.mgmt ∧
      (∀ c : RootCopy, RootCopyOf (rootData 0xA7 3 0x80 0 0x80) c →
        c.boot[(0 : Slot)].toNat % 64 = 0 ∧
          State.recordBusy { mappedState with map := mappedState.withoutBound 0 }
            c.boot[(0 : Slot)]) ∧
      (mappedState.slot 0).disableReq = false ∧ (mappedState.slot 0).pendingForce = none ∧
      ∀ j : Slot, (mappedState.slot j).switch = none := by
  refine ⟨by unfold RootPasses; decide +kernel, by decide +kernel, ?_, table_issued _ _ rfl, rfl, rfl, ?_,
    by decide +kernel, by decide +kernel, by decide +kernel⟩
  · intro c h
    rw [h.boot 0]
    decide +kernel
  · intro c h
    rw [h.boot 0]
    decide +kernel

/-- A root record whose slots 0 and 1 have the same boot binding. -/
def twoBoots : List Byte := (rootData 0xA7 3 0x80 0 0x80).set 40 0x80

theorem witness_BootBindingClaimsItsRecord_several :
    TableIssued startingState 9 (rootRead 0) ∧ startingState.device = .starting ∧
      twoBoots.length = 160 ∧ RootPasses twoBoots ∧
      ∀ i : Slot, field twoBoots (32 + 8 * i.val) 5 = if i = 0 ∨ i = 1 then 0x80 else 0 := by
  refine ⟨starting_issued, rfl, by decide +kernel, by unfold RootPasses; decide +kernel, by decide +kernel⟩

/-- The last boot binding of a STARTING device, its record read in flight. -/
def bootingState : State :=
  withTable
    ({ State.reset with device := .starting, root := some root }.setSlot 0
      { SlotRecord.fresh .binding with
        switch := some { forceRecord .bind none with origin := .bind } })
    (readOp 0 .recordRead 0x80 64)

theorem witness_BootBindingClaimsItsRecord_failed :
    TableFails bootingState 9 (readOp 0 .recordRead 0x80 64)
        (.responseArrival .primary 9 .error []) .free ∧
      bootingState.device = .starting ∧ bootingState.root = some root ∧
      (bootingState.slot 0).state = .binding ∧
      (bootingState.slot 0).switch = some { forceRecord .bind none with origin := .bind } ∧
      (bootingState.slot 0).disableReq = false ∧ (bootingState.slot 0).pendingForce = none ∧
      ∀ j : Slot, j ≠ 0 → (bootingState.slot j).switch = none :=
  ⟨⟨table_issued _ _ rfl, Or.inl ⟨rfl, rfl⟩⟩, rfl, rfl, by decide +kernel, by decide +kernel,
    by decide +kernel, by decide +kernel, by decide +kernel⟩

/-- A granule issued at time 2 in epochs of 10 microseconds: the limit of 1000 is reached 1002 - `now`
microseconds from `now` on. -/
def epochs (now count : Nat) (run : Bool) : State :=
  { withGranule (running bound) granule entry with
    timer := { now := now, count := count, running := run } }

theorem witness_EpochExpiryRefillsEveryBinding (now count : Nat) (run : Bool) :
    GranuleIssued (epochs now count run) .primary 9 [] granule [] ∧
      granule.flight = some { id := 9, time := 2 } ∧
      (epochs now count run).mgmt.responseLimit = 1000#12 ∧ (1000#12) ≠ 0 ∧
      (epochs now count run).timer.running = run ∧ (epochs now count run).timer.count = count ∧
      (epochs now count run).epochLength = 10 :=
  have h := granule_issued (running bound) granule entry ⟨rfl, rfl⟩
  ⟨⟨h.split, h.port, h.issued, h.first, h.inUse⟩, rfl, rfl, by decide, rfl, rfl, rfl⟩

/-- The TFU's operation in flight, in the same epochs. -/
def tableEpochs (now count : Nat) (run : Bool) : State :=
  withTable
    { running (inStage .loading mailSwitch) with timer := { now := now, count := count, running := run } }
    (readOp 0 .recordRead 0x80 64)

theorem witness_EpochExpiryRefillsEveryBinding_inFlight (now count : Nat) (run : Bool) :
    InFlight (epochs now count run) .primary 9 { id := 9, time := 2 } ∧
      InFlight (tableEpochs now count run) .primary 9 { id := 9, time := 2 } ∧
      (tableEpochs now count run).mgmt.responseLimit = 1000#12 ∧
      (tableEpochs now count run).timer.running = run ∧
      (tableEpochs now count run).timer.count = count ∧
      (tableEpochs now count run).epochLength = 10 :=
  ⟨Or.inl ⟨[], granule, [], (witness_EpochExpiryRefillsEveryBinding now count run).1, rfl⟩,
    Or.inr ⟨_, rfl, table_issued _ _ rfl, rfl⟩, rfl, rfl, rfl, rfl⟩

/-- Times that meet each clause: short of the epoch's end, past it, and at it. -/
theorem witness_EpochExpiryRefillsEveryBinding_times :
    1000 + 2 = 2 + (1000#12).toNat ∧ 7 + 2 < 10 ∧ 9 + 2 > 10 ∧ (9 + 2) % 10 ≠ 0 ∧ 9 < 10 ∧
      10 ≤ 8 + 2 ∧ (8 + 2) % 10 = 0 ∧ 990 + 12 = 2 + (1000#12).toNat ∧ (8 + 12) % 10 = 0 ∧
      8 + 12 ≠ 10 := by decide

theorem witness_QuiesceIsTakenInRunningOnly :
    TakesFrames (running bound) ∧ (running bound).device = .running ∧
      (running bound).tracker = [] ∧ (running bound).tfu.queue = [] ∧
      (running bound).tfu.inFlight = none ∧ (∀ i : Slot, ((running bound).slot i).switch = none) ∧
      (withGranule (running bound) granule entry).tracker ≠ [] ∧ State.reset.device ≠ .running := by
  unfold TakesFrames
  decide +kernel

/-- A QUIESCING device with the result write of slot 0 in flight. -/
def lastWrite : State :=
  { switchState .closing mailSwitch resultWrite with device := .quiescing }

/-- For the settlement of a granule, witness_StartIsTakenInDirectOnly_settles with QUIESCING. -/
theorem witness_QuiesceIsTakenInRunningOnly_write :
    WriteSettles lastWrite 9 resultWrite (.responseArrival .primary 9 .ok []) .free false ∧
      resultWrite.owner = some 0 ∧ resultWrite.what = .resultWrite ∧
      lastWrite.device = .quiescing ∧ (lastWrite.slot 0).state = .closing ∧
      (lastWrite.slot 0).switch = some mailSwitch ∧ (lastWrite.slot 0).disableReq = false ∧
      mailSwitch.origin = .mailbox ∧
      mailSwitch.mailbox = some { target := 0x8000#40, request := 0x1000#40 } ∧
      mailSwitch.preempted = none ∧ mailSwitch.kind ≠ .rebind ∧ mailSwitch.kind ≠ .bind ∧
      lastWrite.tracker = [] ∧ lastWrite.tfu.queue = [] ∧
      ∀ j : Slot, j ≠ 0 → (lastWrite.slot j).switch = none :=
  ⟨(write_settles { running (inStage .closing mailSwitch) with device := .quiescing } resultWrite rfl
      rfl).1, rfl, rfl, rfl, by decide +kernel, by decide +kernel, by decide +kernel, rfl, rfl, rfl,
    by decide, by decide, rfl, rfl, by decide +kernel⟩

/-- A QUIESCED device whose slot 0 holds a pending force, and with granules of slot 0 in the tracker. -/
def quiesced (f : PendingForce) : State :=
  { running { bound with pendingForce := some f } with device := .quiesced }
def gateCall (g : Byte) : PendingForce := .call { group := g, entry := 5 }

theorem witness_ResumeTakesThePendingForces (f : PendingForce) :
    TakesFrames (quiesced f) ∧ (quiesced f).device = .quiesced ∧
      (quiesced f).slot 0 = { bound with pendingForce := some f } ∧
      MayTake { bound with pendingForce := some f } f ∧ bound.state = .active ∧
      bound.switch = none ∧ bound.disableReq = false ∧ (quiesced f).tracker = [] ∧
      (∃ x ∈ (withGranule (quiesced f) granule entry).tracker, x.slot = 0) ∧
      (quiesced f).root = some root ∧ (2#8).toNat < root.dirLength ∧
      root.dirLength ≤ (3#8).toNat ∧ root.boot[(0 : Slot)] ≠ 0 ∧ root.boot[(1 : Slot)] = 0 ∧
      (∀ j : Slot, j ≠ 0 → ((quiesced f).slot j).pendingForce = none) ∧
      (running bound).device ≠ .quiescing ∧ (running bound).device ≠ .quiesced := by
  refine ⟨by unfold TakesFrames; exact rfl, rfl, State.slot_setSlot _ _ _, Or.inl rfl, rfl, rfl, rfl,
    rfl, ⟨granule, List.mem_singleton.mpr rfl, rfl⟩, rfl, by decide, by decide, by decide, by decide,
    ?_, by decide, by decide⟩
  intro j hj
  have h : (quiesced f).slot j = State.reset.slot j := State.slot_setSlot_ne _ _ hj
  have hr : ∀ j : Slot, (State.reset.slot j).pendingForce = none := by decide +kernel
  rw [h]
  exact hr j

theorem witness_ResetCommandAndInputResetTheDevice :
    TakesFrames (running bound) ∧ 1 ≤ (running bound).mgmt.threshold := by
  unfold TakesFrames
  decide +kernel

/-! Forces and slot control -/

/-- Slot 0 of a RUNNING device with a pending force, in CLOSING, or OFF. -/
def forced : State := running { bound with pendingForce := some .rebind }
def later : State := running (inStage .closing mailSwitch)
def shutState : State := running (SlotRecord.fresh .off)

theorem witness_ForceIsJudgedInOrder :
    TakesFrames State.reset ∧ ¬Guarding State.reset ∧ Guarding forced ∧
      (forced.slot 0).pendingForce ≠ none ∧ Guarding shutState ∧
      (shutState.slot 0).pendingForce = none ∧ (shutState.slot 0).state = .off ∧
      Guarding unboundState ∧ (unboundState.slot 0).pendingForce = none ∧
      (unboundState.slot 0).disableReq = false ∧ (unboundState.slot 0).state = .unbound ∧
      PendingForce.call { group := 2, entry := 5 } ≠ .rebind ∧ Guarding later ∧
      (later.slot 0).pendingForce = none ∧ (later.slot 0).disableReq = false ∧
      StaysPending (later.slot 0) ∧ (0x30#32).toNat / 16 % 16 ≠ 1 ∧
      (0x30#32).toNat / 16 % 16 ≠ 2 := by
  unfold TakesFrames Guarding StaysPending InLaterStage
  decide +kernel

theorem witness_ForceCallIsTakenFromAnActiveSlot :
    TakesFrames (running bound) ∧ (running bound).device = .running ∧
      ((running bound).slot 0).state = .active ∧ ((running bound).slot 0).switch = none ∧
      ((running bound).slot 0).pendingForce = none ∧ ((running bound).slot 0).disableReq = false ∧
      (∃ x ∈ (withGranule (running bound) granule entry).tracker, x.slot = 0) ∧
      (running bound).root = some root ∧ (∀ x ∈ (running bound).tracker, x.slot ≠ 0) ∧
      (2#8).toNat < root.dirLength ∧ root.dirLength ≤ (3#8).toNat ∧
      root.dirAddr.toNat / 8 * 8 + 8 * root.dirLength ≤ 2 ^ 40 := by
  unfold TakesFrames
  decide +kernel

/-- Slot 0 in DRAINING of a captured mailbox request, and of a force CALL. -/
def captured : State := withGranule (running (inStage .draining mailSwitch)) granule entry
def forcedCall (g : Byte) : SwitchRec := forceRecord .call (some { group := g, entry := 5 })
def drainingForce (g : Byte) : State :=
  withGranule (running (inStage .draining (forcedCall g))) granule entry

theorem witness_ForceCallIsTakenFromAnActiveSlot_preempts :
    TakesFrames captured ∧ captured.device = .running ∧ (captured.slot 0).state = .draining ∧
      (captured.slot 0).switch = some mailSwitch ∧ mailSwitch.origin = .mailbox ∧
      mailSwitch.mailbox = some { target := 0x8000#40, request := 0x1000#40 } ∧
      (captured.slot 0).pendingForce = none ∧ (captured.slot 0).disableReq = false ∧
      ∃ x ∈ captured.tracker, x.slot = 0 := by
  unfold TakesFrames
  decide +kernel

theorem witness_ForceCallIsTakenFromAnActiveSlot_drained (g : Byte) :
    (∃ u, GranuleSettles (drainingForce g)
      (.responseArrival .primary 9 .ok [1, 2, 3, 4, 5, 6, 7, 8]) granule [] .ok u) ∧
      Switching (drainingForce g) 0 .draining (forcedCall g) ∧ (forcedCall g).origin = .force ∧
      (forcedCall g).kind = .call ∧ (forcedCall g).gate = some { group := g, entry := 5 } ∧
      (drainingForce g).root = some root ∧ (∀ x ∈ ([] : List TrackerEntry), x.slot ≠ 0) :=
  ⟨(granule_settles _ _ _ ⟨rfl, rfl⟩ ⟨rfl, rfl⟩).1 _ (fun _ => rfl),
    switching_at _ _ _ ⟨rfl, State.slot_setSlot _ _ _⟩, rfl, rfl, rfl, rfl, by simp⟩

/-- A force stays pending in RUNNING in DRAINING of a force, and of an ENABLE. -/
theorem witness_ForceIsJudgedInOrder_draining (o : Origin) (ho : o = .force ∨ o = .enable) :
    let s := drainingWith bound { forceRecord .bind none with origin := o } granule entry
    TakesFrames s ∧ s.device = .running ∧ (s.slot 0).pendingForce = none ∧
      (s.slot 0).disableReq = false ∧ StaysPending (s.slot 0) := by
  refine ⟨rfl, rfl, ?_, ?_, ?_⟩ <;> rw [drainingWith_slot]
  · rfl
  · rfl
  · exact Or.inr ⟨rfl, _, rfl, ho⟩

/-- A force REBIND for an UNBOUND slot while QUIESCING, and while QUIESCED. -/
theorem witness_ForceIsJudgedInOrder_unbound (d : DeviceState) (hd : d = .quiescing ∨ d = .quiesced) :
    let s := { unboundState with device := d }
    TakesFrames s ∧ Guarding s ∧ s.device ≠ .running ∧ (s.slot 0).pendingForce = none ∧
      (s.slot 0).disableReq = false ∧ (s.slot 0).state = .unbound ∧ s.queued 0 = [] := by
  unfold TakesFrames Guarding
  rcases hd with rfl | rfl <;> decide +kernel

/-- A DRAINING of a force REBIND, and of an ENABLE. -/
theorem witness_drained (sw : SwitchRec) :
    (∃ u, GranuleSettles (drainingWith bound sw granule entry)
      (.responseArrival .primary 9 .ok [1, 2, 3, 4, 5, 6, 7, 8]) granule [] .ok u) ∧
      Switching (drainingWith bound sw granule entry) 0 .draining sw ∧
      (drainingWith bound sw granule entry).root = some root :=
  ⟨(granule_settles _ _ _ ⟨rfl, rfl⟩ ⟨rfl, rfl⟩).1 _ (fun _ => rfl), drainingWith_switching _ _ _ _,
    rfl⟩

theorem witness_drained_switches :
    (forceRecord .rebind none).origin = .force ∧ (forceRecord .rebind none).kind = .rebind ∧
      ({ forceRecord .bind none with origin := .enable } : SwitchRec).origin = .enable ∧
      ({ forceRecord .bind none with origin := .enable } : SwitchRec).kind = .bind :=
  ⟨rfl, rfl, rfl, rfl⟩

/-- A RUNNING device whose slot 0 has the boot binding `a`, slot 1 holding the record 80h. -/
def bootedAt (a : Addr) : State :=
  { running bound with
    root := some { root with boot := (Vector.replicate 16 0).set 0 a }
    map := [{ record := 0x80#40, slot := 1, role := .active }] }

theorem witness_ForceRebindStartsFromTheBootRecord :
    TakesFrames (running bound) ∧ (running bound).device = .running ∧
      ((running bound).slot 0).state = .active ∧ (unboundState.slot 0).state = .unbound ∧
      unboundState.queued 0 = [] ∧ ((running bound).slot 0).pendingForce = none ∧
      ((running bound).slot 0).disableReq = false ∧ ((running bound).slot 0).switch = none ∧
      (∀ x ∈ (running bound).tracker, x.slot ≠ 0) ∧ root.boot[(0 : Slot)] ≠ 0 ∧
      root.boot[(0 : Slot)].toNat % 64 = 0 ∧
      (State.recordBusy { bootedAt 0x80 with map := (bootedAt 0x80).withoutBound 0 } 0x80) ∧
      (¬State.recordBusy { bootedAt 0xC0 with map := (bootedAt 0xC0).withoutBound 0 } 0xC0) ∧
      (0x81#40).toNat % 64 ≠ 0 ∧ (0x80#40).toNat % 64 = 0 ∧ (0x80#40) ≠ 0 := by
  unfold TakesFrames
  decide +kernel

/-- An ACTIVE and an UNBOUND slot with a granule in flight. -/
theorem witness_ForceRebindStartsFromTheBootRecord_waits (r : SlotRecord)
    (hr : r = bound ∨ r = SlotRecord.fresh .unbound) :
    let s := withGranule (running r) granule entry
    TakesFrames s ∧ s.device = .running ∧
      ((s.slot 0).state = .active ∨ ((s.slot 0).state = .unbound ∧ s.queued 0 = [])) ∧
      (s.slot 0).pendingForce = none ∧ (s.slot 0).disableReq = false ∧ (s.slot 0).switch = none ∧
      ∃ x ∈ s.tracker, x.slot = 0 := by
  unfold TakesFrames
  rcases hr with rfl | rfl <;> decide +kernel

theorem witness_CancelIsAnswered :
    TakesFrames forced ∧ (forced.slot 0).pendingForce ≠ none ∧
      ((running bound).slot 0).pendingForce = none := by
  unfold TakesFrames
  decide +kernel

/-- Slot 0's enable bit clear: its disable requested, or the slot OFF. -/
def clearBit (r : SlotRecord) : State :=
  { running r with mgmt := { Mgmt.fresh with slotEnable := 0xFFFE#16 } }

theorem witness_SlotEnableBindsOrUnbinds :
    TakesFrames (clearBit bound) ∧ State.reset.mgmt.slotEnable.getLsbD 0 = true ∧
      (clearBit bound).mgmt.slotEnable.getLsbD 0 = false ∧
      ((clearBit { bound with disableReq := true }).slot 0).disableReq = true ∧
      ((clearBit (SlotRecord.fresh .off)).slot 0).state = .off ∧
      ((clearBit (SlotRecord.fresh .off)).slot 0).disableReq = false ∧
      ((clearBit (SlotRecord.fresh .off)).slot 0).pendingForce = none ∧
      (clearBit (SlotRecord.fresh .off)).device = .running ∧
      (clearBit (SlotRecord.fresh .off)).root = some root ∧ root.boot[(0 : Slot)] ≠ 0 ∧
      root.boot[(0 : Slot)].toNat % 64 = 0 ∧ (clearBit (SlotRecord.fresh .off)).tracker = [] ∧
      (∃ x ∈ (withGranule (clearBit (SlotRecord.fresh .off)) granule entry).tracker, x.slot = 0) ∧
      (0x81#40).toNat % 64 ≠ 0 ∧
      (State.recordBusy { bootedAt 0x80 with map := (bootedAt 0x80).withoutBound 0 } 0x80) ∧
      (clearBit (SlotRecord.fresh .off)).map = [] := by
  unfold TakesFrames
  decide +kernel

theorem witness_SlotDisableEmptiesTheSlot :
    TakesFrames (running bound) ∧ (running bound).mgmt.slotEnable.getLsbD 0 = true ∧
      ((running bound).slot 0).state = .active ∧ (unboundState.slot 0).state = .unbound ∧
      ((running (inStage .draining mailSwitch)).slot 0).state = .draining ∧
      InLaterStage (later.slot 0).state := by
  unfold TakesFrames InLaterStage
  decide +kernel

/-! The management link -/

theorem witness_ResponseLimitIsJudgedAtTheWrite :
    TakesFrames State.reset ∧ 4095 < (4096#32).toNat ∧ (4095#32).toNat ≤ 4095 ∧
      (∀ e ∈ (withGranule State.reset granule entry).tracker, ∀ f ∈ e.flight.toList,
        State.reset.timer.now < f.time + 1) ∧
      ({ due with
        mgmt := { due.mgmt with responseLimit := 1000#12 }
        freeCount := due.freeCount + 1 } : State).dueOps = [(.primary, 9)] ∧
      ({ due with
        mgmt := { due.mgmt with responseLimit := 1001#12 }
        freeCount := due.freeCount + 1 } : State).dueOps = [] := by
  unfold TakesFrames
  decide +kernel

/-- Two granules of a request and a table operation, each issued at time 2 and due at once. -/
def manyDue : State :=
  { withTable State.reset (readOp 0 .recordRead 0x80 64) with
    tracker := [{ granule with flight := some { id := 3, time := 2 } },
      { granule with port := .aux, flight := some { id := 3, time := 2 } }]
    timer := { now := 1002, count := 0, running := false } }

theorem witness_ResponseLimitIsJudgedAtTheWrite_several :
    TakesFrames manyDue ∧
      ({ manyDue with
        mgmt := { manyDue.mgmt with responseLimit := 1000#12 }
        freeCount := manyDue.freeCount + 1 } : State).dueOps =
          [(.primary, 3), (.aux, 3), (.primary, 9)] := by
  unfold TakesFrames
  decide +kernel

theorem witness_ResponseLimitIsJudgedAtTheWrite_expiry :
    InFlight due .primary 9 { id := 9, time := 2 } ∧ LimitReached due 2 :=
  ⟨Or.inl ⟨[], granule, [],
    have h := granule_issued State.reset granule entry ⟨rfl, rfl⟩
    ⟨h.split, h.port, h.issued, h.first, h.inUse⟩, rfl⟩, by unfold LimitReached; decide +kernel⟩

theorem witness_NoticeRegistersAreWritten :
    TakesFrames State.reset ∧ 1 ≤ (1#32).toNat ∧ (32#32).toNat ≤ 32 ∧ (0#32).toNat = 0 ∧
      32 < (33#32).toNat := by
  unfold TakesFrames
  decide +kernel

/-- A log of one record at word `n`, at the frame boundary or in the middle of a LOG_DATA read. -/
def logState (n : Fin 4) (r : Receiver) : State :=
  { State.reset with
    log := { FaultLog.empty with records := [startRecord], word := n }
    link := { State.reset.link with receiver := r } }

theorem witness_LogDataReadReturnsAndPops :
    TakesFrames (logState 2 .boundary) ∧ (logState 2 .boundary).log.records = startRecord :: [] ∧
      (logState 2 .boundary).log.word ≠ 3 ∧ (logState 3 .boundary).log.word = 3 ∧
      (logState 3 (.inFrame [0x3A#8, 0x00#8, 0x0F#8] 7#32)).link.receiver =
        .inFrame [0x3A#8, 0x00#8, 0x0F#8] 7#32 ∧ State.reset.log.records = [] := by
  unfold TakesFrames
  decide +kernel

/-- A LOG_DATA read in progress whose log a reset has emptied. -/
theorem witness_LogDataReadReturnsAndPops_empty :
    (State.reset.log.records = []) ∧ TakesFrames State.reset ∧
      ({ State.reset with
        link := { State.reset.link with
          receiver := .inFrame [0x3A#8, 0x00#8, 0x0F#8] 7#32 } } : State).link.receiver =
        .inFrame [0x3A#8, 0x00#8, 0x0F#8] 7#32 := by
  unfold TakesFrames
  decide +kernel

theorem witness_SlotInfoShowsTheSnapshot :
    TakesFrames (running bound) ∧ (running bound).mgmt.slotSelect = 0 ∧
      ((running bound).slot 0).binding = some binding ∧ (1 : Fin 4) ≠ 0 ∧ (3 : Fin 4) ≠ 0 ∧
      (State.reset.slot 0).binding = none := by
  unfold TakesFrames
  decide +kernel

theorem witness_RegisterWriteIsJudgedByItsIndex :
    TakesFrames State.reset ∧ 15#16 ∈ [0#16, 1#16, 10#16, 11#16, 12#16, 13#16, 14#16, 15#16] ∧
      18 < (19#16).toNat ∧ (0#32).toNat % 256 = 0 ∧ 5 < (6#32).toNat % 256 ∧
      (15#32).toNat = (15 : Slot).val ∧ 15 < (16#32).toNat := by
  unfold TakesFrames
  decide +kernel

/-- The values of COMMAND, FORCE and SLOT_ENABLE that the rows write, and one that changes two bits. -/
theorem witness_RegisterWriteIsJudgedByItsIndex_rows :
    (1#32).toNat % 256 = 1 ∧ (0x102#32).toNat % 256 = 2 ∧ (3#32).toNat % 256 = 3 ∧
      (4#32).toNat % 256 = 4 ∧ (0xFF05#32).toNat % 256 = 5 ∧
      (15 : Slot).val = (0x05021F#32).toNat % 16 ∧ (0x05021F#32).toNat / 16 % 16 = 1 ∧
      (2#8).toNat = (0x05021F#32).toNat / 256 % 256 ∧
      (5#8).toNat = (0x05021F#32).toNat / 65536 % 256 ∧ (0x2F#32).toNat / 16 % 16 = 2 ∧
      0x7FFF#16 = State.reset.mgmt.slotEnable &&& ~~~(1#16 <<< (15 : Slot).val) ∧
      0xFFFF#16 = (clearBit bound).mgmt.slotEnable ||| (1#16 <<< (0 : Slot).val) ∧
      State.reset.changedSlots 0x7FFE#16 = [0, 15] := by
  decide +kernel

/-- The receiver after reset, but standing as `r`. -/
def linkAt (r : Receiver) : State := { State.reset with link := { State.reset.link with receiver := r } }

theorem witness_FramesAreBoundedByChipSelect :
    TakesFrames State.reset ∧ (0x3B#8) ≠ 0x3A#8 ∧ (0x3B#8) ≠ 0x5C#8 ∧
      State.reset.readRegister 18#16 = some 1#32 ∧ (18#16) ≠ 0x0A#16 ∧ (18#16) ≠ 0x0F#16 ∧
      18 < (19#16).toNat ∧ 18 < (0x112#16).toNat ∧ IsFrame .start ∧
      Instr.start ≠ .logDataRead .toByte3 ∧ Instr.start ≠ .logDataRead .byte7 ∧
      (linkAt .awaitDeselect).link.receiver = .awaitDeselect ∧
      (linkAt (.inFrame [0x3A#8] 0)).link.receiver = .inFrame [0x3A#8] 0 ∧
      [0x5C#8, 0, 4, 0, 0, 0].head? = some 0x5C#8 ∧ [0x5C#8, 0, 4, 0, 0, 0].length < 7 ∧
      [0x3A#8, 0].length < 3 := by
  refine ⟨by unfold TakesFrames; decide +kernel, by decide, by decide, by decide +kernel, by decide,
    by decide, by decide, by decide, trivial, by decide, by decide, rfl, rfl, by decide, by decide,
    by decide⟩

/-- The commands whose next states that statement's hypotheses name answer one. -/
theorem witness_FramesAreBoundedByChipSelect_next :
    exec (.slotInfoRead 0) State.reset = .next (after (.slotInfoRead 0) State.reset) ∧
      exec (.logDataRead .whole) State.reset = .next (after (.logDataRead .whole) State.reset) ∧
      exec (.logDataRead .toByte3) State.reset =
        .next (after (.logDataRead .toByte3) State.reset) ∧
      exec (.registerWrite 4 1) State.reset = .next (after (.registerWrite 4 1) State.reset) ∧
      exec .start State.reset = .next (after .start State.reset) :=
  ⟨rfl, rfl, rfl, rfl, rfl⟩

/-- Bytes 4 on of a read frame: whole, cut short at byte 7, and cut short before it. -/
theorem witness_FramesAreBoundedByChipSelect_lengths :
    4 ≤ [0#8, 0, 0, 0, 0].length ∧ 4 ≤ [0#8, 0, 0, 0].length ∧ [0#8, 0, 0].length < 4 ∧
      ([] : List Byte).length < 4 := by decide

/-! Encodings and invariants -/

theorem witness_RecordWordsFollowTheirLayouts :
    (0xFFFFFFFFC0#40).toNat % 64 = 0 ∧ startRecord.target = none ∧
      startRecord.detail = some (.start .rootTag) ∧ startRecord.context = none ∧
      startRecord.request = none ∧ (List.replicate 31 startRecord).length < 32 ∧
      32 ≤ (List.replicate 32 startRecord).length := by decide

/-- The invariants hold at reset, and a step goes on from there. -/
theorem witness_step : step State.reset = .next (State.latchNotice (tick State.reset)) := by rfl

theorem witness_StoresStayWithinTheirPlaces : LogBounded State.reset ∧ StoresBounded State.reset := by
  unfold LogBounded StoresBounded
  decide +kernel

/-- Slot 0 in LOADING, the first descriptor of a run of 32 read: the run that fills the staged list. -/
def reading : State :=
  switchState .loading
    { mailSwitch with cursor := some { header := 0x6000#40, count := 32, index := 0 } }
    (slotRead 0 .descriptorRead 0x6008#40 16)

theorem witness_StoresStay_fetches : FetchSound reading := by
  have hl : ∀ i : Slot, reading.stagedCount i = 0 ∧ reading.committedCount i = 0 := fun i =>
    ⟨(stagedCount_eq reading i).trans (countP_freeCache rfl),
      (committedCount_eq reading i).trans (countP_freeCache rfl)⟩
  have ho : ∀ i : Slot, reading.slotOps i =
      if i = 0 then [slotRead 0 .descriptorRead 0x6008#40 16] else [] := by decide +kernel
  have hs : (reading.slot 0).state = .loading := by decide +kernel
  refine ⟨fun i => ⟨?_, fun hq => ?_, by simp [hl], by simp [hl], fun o hi _ => ?_⟩,
    fun h => absurd (by decide +kernel) h, fun h => absurd h (by decide +kernel)⟩
  · rw [ho]
    split <;> simp
  · by_cases hi : i = 0
    · subst hi
      rw [hs] at hq
      simp at hq
    · rw [ho, if_neg hi]
  · by_cases h0 : i = 0
    · subst h0
      exact ⟨_, _, congrArg SlotRecord.switch (switchState_slot _ _ _), rfl, by decide, by simp [hl]⟩
    · rw [ho, if_neg h0] at hi
      simp at hi

theorem witness_RecordAddressesStayUniqueInTheMap : MapSound State.reset := by
  unfold MapSound
  decide +kernel

theorem witness_SlotRecordsStaySound : SlotsSound (running bound) := by
  intro i
  by_cases h : i = 0
  · subst h
    have hs : (running bound).slot 0 = bound := State.slot_setSlot _ _ _
    rw [hs]
    refine ⟨?_, by decide, ?_, fun _ => rfl⟩
    · rintro b hb
      obtain rfl := Option.some.inj hb
      decide
    · rintro sw hw
      exact absurd hw (by simp [bound, SlotRecord.fresh])
  · have hs : (running bound).slot i = State.reset.slot i := State.slot_setSlot_ne _ _ h
    have hr : ∀ i : Slot, State.reset.slot i = SlotRecord.fresh .unbound := by decide +kernel
    rw [hs, hr i]
    refine ⟨?_, by decide, ?_, fun _ => rfl⟩ <;> rintro x hx <;>
      exact absurd hx (by simp [SlotRecord.fresh])

theorem witness_StartAndTimerStaySound : StartSound (running bound) where
  direct := fun h => absurd h (by decide +kernel)
  oneRead := by decide +kernel
  readWaits := fun h => absurd (by decide +kernel) h
  timer := fun _ => ⟨Or.inl rfl, by decide +kernel⟩

theorem witness_TagsStayUniqueWithinASlot : TagsSound (withReq State.reset readReq) := by
  unfold TagsSound
  decide +kernel

end Sys2Proof.Tests
end

section
/-! PROOFS. REQUEST_ARRIVAL (R26 to R30): an arrival is a refusal or a place at a queue's tail, as the
five checks decide in their order. -/

namespace Sys2Proof.Machine

/-! ### The queue of a request's lane (R30) -/

theorem Intake.push_eq (q : Intake) (r : Request) :
    q.push r = if r.lane = .regular then { q with regular := q.regular ++ [r] }
      else { q with priority := q.priority ++ [r] } := by
  unfold Intake.push
  cases r.lane <;> rfl

theorem queueFull_iff_of_regular {s : State} {r : Request} (hl : r.lane = .regular) :
    QueueFull s r ↔ 4 ≤ (s.queues r.initiator).regular.length := by
  simp [QueueFull, hl]

theorem queueFull_iff_of_priority {s : State} {r : Request} (hl : r.lane = .priority) :
    QueueFull s r ↔ 2 ≤ (s.queues r.initiator).priority.length := by
  simp [QueueFull, hl]

/-! ### The two outcomes of an arrival -/

theorem exec_requestArrival {s : State} (r : Request) (hr : s.resetHeld = false) :
    exec (.requestArrival r) s = .next (arrive s r).latchNotice := by
  show execRequestArrival r s = _
  simp [execRequestArrival, finish, hr]

theorem exec_requestArrival_of_refusal {s : State} {r : Request} {k : FaultKind}
    (hr : s.resetHeld = false) (hk : s.refusal r = some k) :
    exec (.requestArrival r) s = .next (s.refused r k).latchNotice := by
  rw [exec_requestArrival r hr, arrive_eq, hk]

theorem exec_requestArrival_of_no_refusal {s : State} {r : Request}
    (hr : s.resetHeld = false) (hk : s.refusal r = none) :
    exec (.requestArrival r) s =
      .next (s.setQueues r.initiator ((s.queues r.initiator).push r)).latchNotice := by
  rw [exec_requestArrival r hr, arrive_eq, hk]

/-- Settles O3: each clause names the first check that fails, which `refusal_eq` reads off the chain of
the five checks. -/
theorem firstFailingCheckRefusesAnArrival : Obligations.FirstFailingCheckRefusesAnArrival := by
  intro r s hr
  refine ⟨fun hform => ?malformed, fun hform htag => ?tagReuse, fun hform htag hslot => ?slotOff,
    fun hform htag hslot hunb => ?unboundSlot, fun hform htag hslot hunb hfull => ?queueOverrun,
    fun hform htag hslot hunb hfull => ?passed⟩
  case malformed =>
    exact exec_requestArrival_of_refusal hr (by rw [refusal_eq, if_pos hform])
  case tagReuse =>
    exact exec_requestArrival_of_refusal hr (by rw [refusal_eq, if_neg hform, if_pos htag])
  case slotOff =>
    exact exec_requestArrival_of_refusal hr
      (by rw [refusal_eq, if_neg hform, if_neg htag, if_pos hslot])
  case unboundSlot =>
    exact exec_requestArrival_of_refusal hr
      (by rw [refusal_eq, if_neg hform, if_neg htag, if_neg hslot, if_pos hunb])
  case queueOverrun =>
    exact exec_requestArrival_of_refusal hr
      (by rw [refusal_eq, if_neg hform, if_neg htag, if_neg hslot, if_neg hunb, if_pos hfull])
  case passed =>
    rw [← Intake.push_eq]
    exact exec_requestArrival_of_no_refusal hr
      (by rw [refusal_eq, if_neg hform, if_neg htag, if_neg hslot, if_neg hunb, if_neg hfull])

/-- Settles O4: with the first four checks passed, only the last two clauses of O3 remain, and the lane
says which queue's places decide between them. -/
theorem admittedArrivalJoinsItsQueue : Obligations.AdmittedArrivalJoinsItsQueue := by
  intro r s hr hform htag hslot hunb
  obtain ⟨-, -, -, -, hfull, hpass⟩ := firstFailingCheckRefusesAnArrival r s hr
  have overrun := hfull hform htag hslot hunb
  have joins := hpass hform htag hslot hunb
  refine ⟨fun hl hn => ?_, fun hl hn => ?_, fun hl hn => ?_, fun hl hn => ?_⟩
  · rw [joins ((queueFull_iff_of_regular hl).not.mpr (by omega)), if_pos hl]
  · rw [joins ((queueFull_iff_of_priority hl).not.mpr (by omega)), if_neg (by simp [hl])]
  · exact overrun ((queueFull_iff_of_regular hl).mpr hn)
  · exact overrun ((queueFull_iff_of_priority hl).mpr hn)

end Sys2Proof.Machine
end

section
/-! PROOFS. Window resolution (R49 to R54): a window's range, the judgement of a granule by its deciding
window, and the checks of that window in their order. -/

namespace Sys2Proof.Machine

/-! ### The deciding window (R11, R49) -/

/-- The range of a window (R11): from its base over its size in pages of 4096 bytes. -/
theorem Window.covers_iff (w : Window) (a : Nat) :
    w.covers a = true ↔ w.reqBase.toNat ≤ a ∧ a < w.reqBase.toNat + w.pages * 4096 := by
  rw [Window.covers, Bool.and_eq_true, decide_eq_true_iff, decide_eq_true_iff, Config.pageBytes]

/-- Outside DIRECT a bound slot's granule is judged under the binding. -/
theorem judgeGranule_of_binding {s : State} {i : Slot} {b : Binding} (hd : s.device ≠ .direct)
    (hb : (s.slot i).binding = some b) (r : Request) (j : Nat) :
    judgeGranule s i r j = judgeBound s i b r j := by
  unfold judgeGranule
  rw [if_neg hd, hb]

theorem judgeBound_of_windowOf {s : State} {i : Slot} {r : Request} {j : Nat} {w : Window}
    (h : s.windowOf i r j = some w) (b : Binding) :
    judgeBound s i b r j =
      { outcome := judgeWindow s.root b w r (firstByte r.addr j), exempt := w.exempt } := by
  unfold judgeBound
  rw [h]

theorem judgeBound_of_no_window {s : State} {i : Slot} {r : Request} {j : Nat}
    (h : s.windowOf i r j = none) (b : Binding) :
    judgeBound s i b r j = { outcome := .failed .unmapped, exempt := false } := by
  unfold judgeBound
  rw [h]

/-- Settles O10: the window search of the decode finds the deciding window, or none, and the judgement
under the binding follows the search. -/
theorem firstMatchingWindowDecides : Obligations.FirstMatchingWindowDecides := by
  refine ⟨Window.covers_iff, fun s i r j b hd hb => ⟨fun w hw => ?decided, fun hnone => ?unmapped⟩⟩
  case decided =>
    rw [judgeGranule_of_binding hd hb, judgeBound_of_windowOf (windowOf_of_decidedBy hw)]
  case unmapped =>
    rw [judgeGranule_of_binding hd hb, judgeBound_of_no_window (windowOf_eq_none hnone)]

/-! ### The checks of the deciding window (R50 to R54) -/

/-- The hole check of R51. -/
theorem judgeWindow_of_hole {w : Window} (h : w.port = .hole) (root : Option RootCopy) (b : Binding)
    (r : Request) (a : Nat) : judgeWindow root b w r a = .failed .denied := by
  unfold judgeWindow
  rw [h]

/-- The lane check of R52 comes before the level and the guard. -/
theorem judgeOnPort_of_lane_fails {w : Window} {r : Request} (hl : ¬LaneOk w r)
    (root : Option RootCopy) (b : Binding) (p : MemPort) (t : Addr) :
    judgeOnPort root b w r p t = .failed .lane := by
  unfold judgeOnPort
  rw [if_pos ((laneFails_iff w r).mpr hl)]

/-- The level check of R53 comes second, before the guard. -/
theorem judgeOnPort_of_level_fails {w : Window} {r : Request} {b : Binding} (hl : LaneOk w r)
    (ht : ¬LevelOk w r b.level) (root : Option RootCopy) (p : MemPort) (t : Addr) :
    judgeOnPort root b w r p t = .failed .denied := by
  have hlane : ¬w.laneFails r.lane = true := (laneFails_iff w r).not.mpr (not_not.mpr hl)
  have hlevel : ¬(w.threshold r.op).permits b.level = true := (permits_iff w r b.level).not.mpr ht
  unfold judgeOnPort
  rw [if_neg hlane, if_pos (Bool.eq_false_iff.mpr hlevel)]

/-- The guard of R54 comes last. -/
theorem judgeOnPort_of_guard_stops {w : Window} {r : Request} {b : Binding} {root : Option RootCopy}
    {t : Addr} (hl : LaneOk w r) (ht : LevelOk w r b.level) (hg : GuardStops root b r t)
    (p : MemPort) : judgeOnPort root b w r p t = .failed (.tableGuard t) := by
  have hlane : ¬w.laneFails r.lane = true := (laneFails_iff w r).not.mpr (not_not.mpr hl)
  have hlevel : ¬(w.threshold r.op).permits b.level = false := by
    simp [(permits_iff w r b.level).mpr ht]
  unfold judgeOnPort
  rw [if_neg hlane, if_neg hlevel, if_pos ((guarded_iff root b r t).mpr hg)]

/-- Settles O11: a window that is no hole is judged on its port, one case for each check that can be the
first to fail, and `judgeWindow_of_passes` where none does. -/
theorem windowChecksInOrder : Obligations.WindowChecksInOrder := by
  intro root b w r a
  refine ⟨fun hhole => judgeWindow_of_hole hhole root b r a, fun p hp =>
    ⟨fun hl => ?lane, fun hl ht => ?level, fun hl ht hg => ?guard, judgeWindow_of_passes hp⟩⟩
  case lane => rw [judgeWindow_eq hp, judgeOnPort_of_lane_fails hl]
  case level => rw [judgeWindow_eq hp, judgeOnPort_of_level_fails hl ht]
  case guard => rw [judgeWindow_eq hp, judgeOnPort_of_guard_stops hl ht hg]

end Sys2Proof.Machine
end

section
/-! PROOFS. The primary port arbiter (R76): the side it serves, the issue that side makes, and the side
served last after a reset. -/

namespace Sys2Proof.Machine

/-! ### The side served (R76) -/

theorem arbiter_eq_granule {table : Bool} {last : Side} (h : table = false ∨ last = .table) :
    arbiter true table last = some .granule := by
  rcases h with rfl | rfl
  · rfl
  · cases table <;> rfl

theorem arbiter_eq_table {granule : Bool} {last : Side} (h : granule = false ∨ last = .granule) :
    arbiter granule true last = some .table := by
  rcases h with rfl | rfl
  · rfl
  · cases granule <;> rfl

/-! ### The issue of a side (R74, R75) -/

/-- The tracker after an issue: the oldest granule that waits is ISSUED where it stands. -/
theorem issueGranule_of_oldestWaiting {s : State} {p : MemPort} {before after : List TrackerEntry}
    {e : TrackerEntry} (h : OldestWaiting s p before e after) (id : IssueId) :
    issueGranule s p e id =
      (({ s with
          tracker := before ++ { e with flight := some { id := id, time := s.timer.now } } :: after
        }.setPool p ((s.pool p).give id)).drive p (granuleIssue e id)) := by
  unfold issueGranule
  rw [updateFirst_oldestWaiting h]

theorem serve_granule_of_oldestWaiting {s : State} {before after : List TrackerEntry}
    {e : TrackerEntry} (h : OldestWaiting s .primary before e after) (id : IssueId) :
    serve s .granule id = { issueGranule s .primary e id with lastServed := .granule } := by
  unfold serve
  rw [oldestWaiting_eq_some h]

theorem serve_table_of_offers {s : State} {o : TableOp} {rest : List TableOp}
    (h : Offers s o rest) (id : IssueId) :
    serve s .table id = { issueTable s o id with lastServed := .table } := by
  unfold serve
  rw [offer_eq_some h]

/-! ### The issue of the P-port (R76) -/

theorem exec_primaryPortIssue (s : State) :
    exec .primaryPortIssue s = .next (primaryIssue s).latchNotice := rfl

theorem primaryIssue_of_served {s : State} {side : Side} {id : IssueId} (hr : s.resetHeld = false)
    (hside : arbiter (s.oldestWaiting .primary).isSome s.tfu.offer.isSome s.lastServed = some side)
    (hid : s.pPool.next = some id) : primaryIssue s = serve s side id := by
  unfold primaryIssue
  rw [hr, hside, hid]
  rfl

theorem primaryIssue_of_resetHeld {s : State} (hr : s.resetHeld = true) : primaryIssue s = s := by
  unfold primaryIssue
  rw [if_pos hr]

theorem primaryIssue_of_nothing_waits {s : State} (hg : NoneWaiting s .primary)
    (ht : OffersNothing s) : primaryIssue s = s := by
  unfold primaryIssue
  rw [oldestWaiting_eq_none hg, offer_eq_none ht]
  exact ite_self s

theorem primaryIssue_of_no_identifier {s : State} (hid : s.pPool.next = none) :
    primaryIssue s = s := by
  unfold primaryIssue
  rw [hid]
  cases arbiter (s.oldestWaiting .primary).isSome s.tfu.offer.isSome s.lastServed <;>
    exact ite_self s

/-! ### The side served last after a reset (R76) -/

theorem deviceReset_lastServed (s : State) : (deviceReset s).lastServed = .table := rfl

theorem powerOnReset_lastServed (s : State) : (powerOnReset s).lastServed = .table := rfl

/-- Settles O17: the arbiter gives the issue to the side its clause names, which `serve` then makes; an
issue that nothing can take leaves the state, and both kinds of reset set the side served last. -/
theorem primaryPortAlternatesBetweenItsSides :
    Obligations.PrimaryPortAlternatesBetweenItsSides := by
  refine ⟨fun s before after e id hr he hid hturn => ?granule,
    fun s o rest id hr ho hid hturn => ?table, fun s hidle => ?nothing,
    fun s frame => ?powerOn, fun s => ?input, fun s hf => ?command⟩
  case granule =>
    have hside : arbiter (s.oldestWaiting .primary).isSome s.tfu.offer.isSome s.lastServed =
        some .granule := by
      rw [oldestWaiting_eq_some he]
      exact arbiter_eq_granule (hturn.imp_left fun h => by rw [offer_eq_none h]; rfl)
    rw [exec_primaryPortIssue, primaryIssue_of_served hr hside hid,
      serve_granule_of_oldestWaiting he, issueGranule_of_oldestWaiting he]
    rfl
  case table =>
    have hside : arbiter (s.oldestWaiting .primary).isSome s.tfu.offer.isSome s.lastServed =
        some .table := by
      rw [offer_eq_some ho]
      exact arbiter_eq_table (hturn.imp_left fun h => by rw [oldestWaiting_eq_none h]; rfl)
    rw [exec_primaryPortIssue, primaryIssue_of_served hr hside hid, serve_table_of_offers ho]
    obtain ⟨-, hqueue⟩ := ho
    unfold issueTable
    rw [hqueue]
    rfl
  case nothing =>
    have hkeep : primaryIssue s = s := by
      rcases hidle with hr | ⟨hg, ht⟩ | hid
      · exact primaryIssue_of_resetHeld hr
      · exact primaryIssue_of_nothing_waits hg ht
      · exact primaryIssue_of_no_identifier hid
    rw [exec_primaryPortIssue, hkeep]
  case powerOn => exact ⟨_, rfl, powerOnReset_lastServed (frameBegun frame s)⟩
  case input => exact ⟨_, rfl, deviceReset_lastServed { s with resetHeld := true }⟩
  case command => exact ⟨_, exec_reset hf, deviceReset_lastServed s⟩

end Sys2Proof.Machine
end

section
/-! PROOFS. The notice line (R181): every event ends with NTC driven to its condition, so after a step the
line follows that condition, bit by bit. -/

namespace Sys2Proof.Machine

/-! ### The end of an event (R181) -/

/-- A step ends its event with NTC driven: the meaning of the front command, or the tick of an empty
queue, is a change of the state that `finish` closes. -/
theorem step_eq_finish (s : State) : ∃ u, step s = finish u := by
  unfold step
  cases s.pending with
  | nil => exact ⟨idle s, rfl⟩
  | cons c cs => cases c <;> exact ⟨_, rfl⟩

theorem latchNotice_of_step {s t : State} (h : step s = .next t) : ∃ u, t = State.latchNotice u := by
  obtain ⟨u, hu⟩ := step_eq_finish s
  exact ⟨u, Host.Outcome.next.inj (h.symm.trans hu)⟩

/-- The condition of NTC reads fields that driving NTC leaves, so afterwards the line stands at it. -/
theorem ntc_eq_noticeLine_of_step {s t : State} (h : step s = .next t) : t.ntc = t.noticeLine := by
  obtain ⟨u, rfl⟩ := latchNotice_of_step h
  rfl

/-! ### The condition of the notice line, bit by bit (R180, R181) -/

theorem ne_zero_iff_exists_getLsbD {w : Nat} {x : BitVec w} :
    x ≠ 0#w ↔ ∃ k < w, x.getLsbD k = true := by
  constructor
  · intro hne
    by_contra hnone
    push Not at hnone
    refine hne (BitVec.eq_of_getLsbD_eq fun k hk => ?_)
    rw [BitVec.getLsbD_zero]
    exact Bool.eq_false_iff.mpr (hnone k hk)
  · rintro ⟨k, -, hk⟩ rfl
    simp at hk

theorem enabledSticky_getLsbD (sticky : BitVec 3) (enables : BitVec 4) {k : Nat} (hk : k < 3) :
    (sticky &&& enables.extractLsb' 0 3).getLsbD k = true ↔
      sticky.getLsbD k = true ∧ enables.getLsbD k = true := by
  simp [hk]

theorem noticeLine_iff (s : State) :
    s.noticeLine = true ↔
      (∃ k < 3, s.mgmt.sticky.getLsbD k = true ∧ s.mgmt.enables.getLsbD k = true) ∨
      (s.mgmt.enables.getLsbD 3 = true ∧ s.mgmt.threshold ≤ s.log.records.length) := by
  have hsticky : s.mgmt.sticky &&& s.mgmt.enables.extractLsb' 0 3 ≠ 0#3 ↔
      ∃ k < 3, s.mgmt.sticky.getLsbD k = true ∧ s.mgmt.enables.getLsbD k = true :=
    ne_zero_iff_exists_getLsbD.trans <| exists_congr fun _ =>
      and_congr_right (enabledSticky_getLsbD s.mgmt.sticky s.mgmt.enables)
  simp only [State.noticeLine, State.logLevel, Bool.or_eq_true, Bool.and_eq_true, bne_iff_ne,
    decide_eq_true_eq, hsticky]

/-- Settles O55: a step leaves NTC at the value of its condition, and that condition, read bit by bit, is
the one stated. -/
theorem noticeLineFollowsItsCondition : Obligations.NoticeLineFollowsItsCondition := by
  intro s t h
  rw [ntc_eq_noticeLine_of_step h]
  exact noticeLine_iff t

end Sys2Proof.Machine
end

section
/-! PROOFS. Slot records (R16, R89, R106): every operation of the switch engine for one slot keeps that
slot's record sound. -/

namespace Sys2Proof.Machine

/-! ### Sound records -/

/-- The part of a sound record that does not read its slot state or switch record: its budget (R89) and
the depth of its stack (R106). -/
structure SlotFits (r : SlotRecord) : Prop where
  budget : ∀ b, r.binding = some b → b.remaining ≤ b.epochBudget
  depth : r.stack.length ≤ 8

/-- A CALL that will push its caller has a place left on the stack (R106). -/
def CallFits (r : SlotRecord) (sw : SwitchRec) : Prop :=
  sw.kind = .call → sw.transfer = false → r.stack.length < 8

theorem SlotSound.fits {r : SlotRecord} (h : SlotSound r) : SlotFits r := ⟨h.budget, h.depth⟩

theorem SlotSound.callFits {r : SlotRecord} {sw : SwitchRec} (h : SlotSound r)
    (hw : r.switch = some sw) (hs : r.state = .loading ∨ r.state = .binding) : CallFits r sw :=
  h.room sw hw (Or.inr hs)

/-- A record without a switch is sound once its parts fit. -/
theorem SlotFits.sound_of_no_switch {r : SlotRecord} (h : SlotFits r) (hw : r.switch = none) :
    SlotSound r where
  budget := h.budget
  depth := h.depth
  room := fun sw hsw => absurd (hw.symm.trans hsw) (by simp)
  atRest := fun _ => hw

/-- So is one in a stage that neither rests nor holds a record that a commit may push. -/
theorem SlotFits.sound_of_stage {r : SlotRecord} (h : SlotFits r)
    (hs : r.state = .draining ∨ r.state = .resolving ∨ r.state = .closing) : SlotSound r where
  budget := h.budget
  depth := h.depth
  room := fun _ _ hr => by rcases hs with hs | hs | hs <;> simp [hs] at hr
  atRest := fun hr => by rcases hs with hs | hs | hs <;> simp [hs] at hr

/-- So is one in SAVING, LOADING or BINDING whose CALL fits the stack. -/
theorem SlotFits.sound_of_load {r : SlotRecord} {sw : SwitchRec} (h : SlotFits r)
    (hs : r.state = .saving ∨ r.state = .loading ∨ r.state = .binding) (hw : r.switch = some sw)
    (hc : CallFits r sw) : SlotSound r where
  budget := h.budget
  depth := h.depth
  room := fun x hx _ => by
    obtain rfl := Option.some.inj (hw.symm.trans hx)
    exact hc
  atRest := fun hr => by rcases hs with hs | hs | hs <;> simp [hs] at hr

/-- A switch record that changes neither its kind nor its TRANSFER flag leaves a sound record sound. -/
theorem SlotSound.withSwitch {r : SlotRecord} {sw x : SwitchRec} (h : SlotSound r)
    (hw : r.switch = some sw) (hk : x.kind = sw.kind) (ht : x.transfer = sw.transfer) :
    SlotSound { r with switch := some x } where
  budget := h.budget
  depth := h.depth
  room := fun y hy hs => by
    obtain rfl := Option.some.inj hy
    rw [hk, ht]
    exact h.room sw hw hs
  atRest := fun hr => absurd ((h.atRest hr).symm.trans hw) (by simp)

/-- What changes none of the fields that soundness reads. -/
theorem SlotSound.of_same {r q : SlotRecord} (h : SlotSound r) (h1 : q.state = r.state)
    (h2 : q.binding = r.binding) (h3 : q.switch = r.switch) (h4 : q.stack = r.stack) :
    SlotSound q where
  budget := by rw [h2]; exact h.budget
  depth := by rw [h4]; exact h.depth
  room := by rw [h3, h1, h4]; exact h.room
  atRest := by rw [h1, h3]; exact h.atRest

/-! ### The end of a switch and its closing (R19, R143, R144) -/

variable {s : State} {i : Slot}

theorem completeDisable_slot (s : State) (i : Slot) :
    (completeDisable s i).slot i =
      { s.slot i with binding := none, stack := [], disableReq := false, state := .off } := by
  simp [completeDisable]

theorem completeDisable_sound (hw : (s.slot i).switch = none) :
    SlotSound ((completeDisable s i).slot i) := by
  rw [completeDisable_slot]
  exact SlotFits.sound_of_no_switch ⟨by simp, by simp⟩ hw

theorem comeToRest_sound (h : SlotFits (s.slot i)) (hw : (s.slot i).switch = none) :
    SlotSound ((comeToRest s i).slot i) := by
  have hs := h.sound_of_no_switch hw
  unfold comeToRest
  split
  · exact completeDisable_sound hw
  · split
    · split
      · rw [State.slot_endForce, State.slot_setSlot]
        exact hs.of_same rfl rfl rfl rfl
      · exact hs
      · exact hs
    · exact hs

theorem reportForce_slot (s : State) (i : Slot) (sw : SwitchRec) :
    ∃ c, (reportForce s i sw).slot i = { s.slot i with lastForce := c } := by
  unfold reportForce
  split
  · split
    · exact ⟨_, State.slot_endForce s i _⟩
    · exact ⟨_, rfl⟩
  · exact ⟨_, rfl⟩

theorem leaveSwitch_sound (h : SlotFits (s.slot i)) (sw : SwitchRec) :
    SlotSound ((leaveSwitch s i sw).slot i) := by
  obtain ⟨c, hc⟩ := reportForce_slot
    (s.setSlot i { s.slot i with state := sw.endState, switch := none }) i sw
  rw [State.slot_setSlot] at hc
  unfold leaveSwitch
  refine comeToRest_sound ?_ ?_ <;> rw [hc]
  exact ⟨h.budget, h.depth⟩

theorem closing_sound (h : SlotFits (s.slot i)) (o : TableOp) :
    SlotSound (((s.setSlotState i .closing).queueTable o).slot i) := by
  rw [State.slot_queueTable, State.slot_setSlotState]
  exact SlotFits.sound_of_stage ⟨h.budget, h.depth⟩ (Or.inr (Or.inr rfl))

theorem closeResult_sound (h : SlotFits (s.slot i)) (sw : SwitchRec) :
    SlotSound ((closeResult s i sw).slot i) := by
  unfold closeResult
  split
  · exact closing_sound h _
  · exact leaveSwitch_sound h sw

theorem close_sound (h : SlotFits (s.slot i)) (sw : SwitchRec) :
    SlotSound ((close s i sw).slot i) := by
  unfold close
  split
  · exact closing_sound h _
  · exact closeResult_sound h sw

/-- A failure releases what its load held, so the record need only fit (R142). -/
theorem failSwitch_sound {sw : SwitchRec} (h : SlotFits (s.slot i)) (hw : (s.slot i).switch = some sw)
    (c : ResultCode) : SlotSound ((failSwitch s i c).slot i) := by
  unfold failSwitch
  rw [hw]
  refine close_sound ?_ _
  rw [State.slot_logFault, State.slot_setSwitch]
  exact ⟨h.budget, h.depth⟩

/-! ### Commit (R140, R141) -/

theorem Loaded.counts_le (l : Loaded) : l.counts.1 ≤ l.epochBudget := by
  unfold Loaded.counts
  split
  · exact Nat.min_le_right _ _
  · exact le_refl _

theorem stackAfter_length {r : SlotRecord} {sw : SwitchRec} (h : r.stack.length ≤ 8)
    (hc : CallFits r sw) : (stackAfter r sw).length ≤ 8 := by
  unfold stackAfter
  split
  next hk =>
    split
    · exact h
    next ht =>
      split
      · exact hc hk (by simpa using ht)
      · exact h
  · simp only [List.length_tail]; omega
  all_goals exact h

theorem commit_sound {sw : SwitchRec} (h : SlotFits (s.slot i)) (hc : CallFits (s.slot i) sw)
    (l : Loaded) (a : Addr) : SlotSound ((commit s i sw l a).slot i) := by
  unfold commit
  dsimp only
  refine close_sound ?_ _
  rw [State.slot_setSlot]
  refine ⟨fun b hb => ?_, stackAfter_length h.depth hc⟩
  dsimp only at hb
  split at hb
  · exact h.budget b hb
  · obtain rfl := Option.some.inj hb
    exact l.counts_le

/-! ### Loading (R136 to R138) -/

theorem beginLoad_sound {sw : SwitchRec} (h : SlotFits (s.slot i)) (hc : CallFits (s.slot i) sw)
    (a : Addr) : SlotSound ((beginLoad s i sw a).slot i) := by
  set t := (s.setSlotState i (if sw.kind = .bind then .binding else .loading)).setSwitch i
    (some { sw with target := some a }) with ht
  have hslot : t.slot i = { s.slot i with
      state := if sw.kind = .bind then .binding else .loading
      switch := some { sw with target := some a } } := by
    rw [ht, State.slot_setSwitch, State.slot_setSlotState]
  have hfits : SlotFits (t.slot i) := by rw [hslot]; exact ⟨h.budget, h.depth⟩
  have hload : SlotSound (t.slot i) := by
    refine hfits.sound_of_load (sw := { sw with target := some a }) ?_ ?_ ?_ <;> rw [hslot]
    · by_cases hk : sw.kind = .bind <;> simp [hk]
    · exact hc
  have hfail := fun c => failSwitch_sound (sw := { sw with target := some a }) hfits (by rw [hslot]) c
  unfold beginLoad
  dsimp only
  rw [← ht]
  split
  · exact hfail _
  · split
    · split
      · exact hfail _
      next u hu =>
        have : u.slot i = t.slot i := by rw [claim_eq hu]; rfl
        rw [State.slot_queueTable, this]
        exact hload
    · exact hload

section
variable {sw x : SwitchRec} (h : SlotSound (s.slot i)) (hw : (s.slot i).switch = some sw)
include h hw

/-- The next read of a load is queued. -/
theorem nextRead_sound (hk : x.kind = sw.kind) (ht : x.transfer = sw.transfer) (o : TableOp) :
    SlotSound (((s.setSwitch i (some x)).queueTable o).slot i) := by
  rw [State.slot_queueTable, State.slot_setSwitch]
  exact h.withSwitch hw hk ht

theorem readDescriptor_sound (c : ListCursor) : SlotSound ((readDescriptor s i sw c).slot i) := by
  unfold readDescriptor
  dsimp only
  split
  · refine failSwitch_sound (sw := { sw with cursor := some c }) ?_ ?_ _ <;>
      rw [State.slot_setSwitch]
    exact ⟨h.budget, h.depth⟩
  · refine nextRead_sound h hw ?_ ?_ _ <;> rfl

theorem recordLoaded_sound (a : Addr) (data : List Byte) :
    SlotSound ((recordLoaded s i sw a data).slot i) := by
  unfold recordLoaded
  dsimp only
  split
  · exact failSwitch_sound h.fits hw _
  · split
    · refine nextRead_sound h hw ?_ ?_ _ <;> rfl
    · refine nextRead_sound h hw ?_ ?_ _ <;> rfl

theorem headerLoaded_sound (hs : (s.slot i).state = .loading ∨ (s.slot i).state = .binding)
    (l : Loaded) (a : Addr) (c : ListCursor) (data : List Byte) :
    SlotSound ((headerLoaded s i sw l a c data).slot i) := by
  unfold headerLoaded
  dsimp only
  split
  · exact commit_sound h.fits (h.callFits hw hs) l a
  · split
    · exact failSwitch_sound h.fits hw _
    · exact readDescriptor_sound h hw _

theorem descriptorLoaded_sound (c : ListCursor) (data : List Byte) :
    SlotSound ((descriptorLoaded s i sw c data).slot i) := by
  unfold descriptorLoaded
  split
  · exact failSwitch_sound h.fits hw _
  · split
    · exact failSwitch_sound h.fits hw _
    next t ht =>
      have hslot : t.slot i = s.slot i := by
        unfold State.stage at ht
        split at ht
        · exact absurd ht (by simp)
        · obtain rfl := Option.some.inj ht; rfl
      rw [← hslot] at h hw
      split
      · exact readDescriptor_sound h hw _
      · refine nextRead_sound h hw ?_ ?_ _ <;> rfl

end

/-! ### Resolving, starts and drains (R121, R130, R133, R135) -/

theorem resolved_sound {sw : SwitchRec} (h : SlotFits (s.slot i)) {transfer : Bool}
    (hc : sw.kind = .call → transfer = false → (s.slot i).stack.length < 8) (a : Addr) (l : Level) :
    SlotSound ((resolved s i sw a l transfer).slot i) := by
  unfold resolved
  dsimp only
  set x : SwitchRec := { sw with target := some a, level := some l, transfer := transfer } with hx
  have hslot : (s.setSwitch i (some x)).slot i = { s.slot i with switch := some x } :=
    State.slot_setSwitch s i _
  have hfits : SlotFits ((s.setSwitch i (some x)).slot i) := by
    rw [hslot]; exact ⟨h.budget, h.depth⟩
  have hcall : CallFits ((s.setSwitch i (some x)).slot i) x := by rw [hslot]; exact hc
  split
  · split
    · unfold beginSaving
      rw [State.slot_queueTable, State.slot_setSlotState, hslot]
      exact SlotFits.sound_of_load ⟨h.budget, h.depth⟩ (Or.inl rfl) rfl hc
    · exact beginLoad_sound hfits hcall a
  · exact beginLoad_sound hfits hcall a

theorem gateLoaded_sound {sw : SwitchRec} (h : SlotFits (s.slot i))
    (hw : (s.slot i).switch = some sw) (data : List Byte) :
    SlotSound ((gateLoaded s i sw data).slot i) := by
  unfold gateLoaded
  dsimp only
  split
  · exact failSwitch_sound h hw _
  · split
    · exact failSwitch_sound h hw _
    · split
      · exact failSwitch_sound h hw _
      next hfull =>
        refine resolved_sound h (fun _ ht => ?_) _ _
        by_contra hlen
        exact hfull ⟨ht, Nat.not_lt.mp hlen⟩

theorem resolve_sound {sw : SwitchRec} (h : SlotFits (s.slot i)) (hw : (s.slot i).switch = some sw) :
    SlotSound ((resolve s i sw).slot i) := by
  have hslot := State.slot_setSlotState s i .resolving
  have hfits : SlotFits ((s.setSlotState i .resolving).slot i) := by
    rw [hslot]; exact ⟨h.budget, h.depth⟩
  have hsound : SlotSound ((s.setSlotState i .resolving).slot i) :=
    hfits.sound_of_stage (by rw [hslot]; exact Or.inr (Or.inl rfl))
  have hfail := fun c => failSwitch_sound (sw := sw) hfits (by rw [hslot]; exact hw) c
  unfold resolve
  dsimp only
  split
  case h_1 =>
    split
    · unfold resolveCall
      split
      · exact hfail _
      · exact hsound
    · exact hsound
  case h_2 hk =>
    split
    · exact hfail _
    · exact resolved_sound hfits (by simp [hk]) _ _
  case h_3 hk =>
    split
    · exact resolved_sound hfits (by simp [hk]) _ _
    · exact hsound
  case h_4 => exact hfail _
  case h_5 => exact hsound
  case h_6 => exact hsound

theorem startBind_sound {sw : SwitchRec} (hw : (s.slot i).switch = some sw) :
    SlotSound ((startBind s i sw).slot i) := by
  set t := ((s.freeCommitted i).dropEntries i).setSlot i
    { s.slot i with binding := none, stack := [] } with ht
  have hslot : t.slot i = { s.slot i with binding := none, stack := [] } := State.slot_setSlot _ i _
  have hfits : SlotFits (t.slot i) := by rw [hslot]; exact ⟨by simp, by simp⟩
  unfold startBind
  dsimp only
  rw [← ht]
  split
  · exact failSwitch_sound hfits (by rw [hslot]; exact hw) _
  · exact beginLoad_sound hfits (fun _ _ => by rw [hslot]; simp) _

theorem dropMailbox_sound (h : SlotFits (s.slot i)) (sw : SwitchRec) :
    SlotSound ((dropMailbox s i sw).slot i) := by
  unfold dropMailbox
  refine comeToRest_sound ?_ ?_ <;> rw [State.slot_setSlot]
  exact ⟨h.budget, h.depth⟩

theorem afterDraining_sound {sw : SwitchRec} (h : SlotSound (s.slot i))
    (hw : (s.slot i).switch = some sw) : SlotSound ((afterDraining s i sw).slot i) := by
  unfold afterDraining
  split
  · split
    · exact resolve_sound h.fits hw
    · exact dropMailbox_sound h.fits sw
    · exact h
    · exact h
  · split
    · exact resolve_sound h.fits hw
    · exact startBind_sound hw
    all_goals exact h
  · exact startBind_sound (by rw [State.slot_setSlotState]; exact hw)
  · exact h

theorem endDraining_sound (h : SlotSound (s.slot i)) : SlotSound ((endDraining s i).slot i) := by
  unfold endDraining
  split
  · split
    next sw hw => exact afterDraining_sound h hw
    · exact h
  · exact h

/-! ### Table operations settled, and forces taken (R131, R150) -/

theorem slotOpFailed_sound {sw : SwitchRec} (h : SlotSound (s.slot i))
    (hw : (s.slot i).switch = some sw) (w : TableWhat) (timedOut : Bool) :
    SlotSound ((slotOpFailed s i sw w timedOut).slot i) := by
  unfold slotOpFailed
  split
  case h_1 => exact h
  case h_9 => exact closeResult_sound (s := s.logFault (closeFault s i)) h.fits sw
  case h_10 => exact leaveSwitch_sound (s := s.logFault (closeFault s i)) h.fits sw
  all_goals exact failSwitch_sound h.fits hw _

/-- The reads of a load are made in LOADING and BINDING, where a pending CALL has its place. -/
theorem slotOpOk_sound {sw : SwitchRec} {w : TableWhat} (h : SlotSound (s.slot i))
    (hw : (s.slot i).switch = some sw) (hs : w.inStage (s.slot i).state = true) (data : List Byte) :
    SlotSound ((slotOpOk s i sw w data).slot i) := by
  unfold slotOpOk
  cases w with
  | rootRead => exact h
  | directoryRead =>
    dsimp only
    split
    · unfold directoryLoaded
      dsimp only
      split
      · exact failSwitch_sound h.fits hw _
      · exact h
    · exact h
  | gateRead => exact gateLoaded_sound h.fits hw data
  | savedWrite =>
    dsimp only
    have hsave : (s.slot i).state = .saving := by simpa [TableWhat.inStage] using hs
    split
    · exact beginLoad_sound h.fits (h.room sw hw (Or.inl hsave)) _
    · exact h
  | recordRead => dsimp only; split; exacts [recordLoaded_sound h hw _ data, h]
  | extensionRead =>
    dsimp only
    split
    · refine nextRead_sound h hw ?_ ?_ _ <;> rfl
    · exact h
  | runHeaderRead =>
    dsimp only
    have hload : (s.slot i).state = .loading ∨ (s.slot i).state = .binding := by
      simpa [TableWhat.inStage] using hs
    split
    · exact headerLoaded_sound h hw hload _ _ _ data
    · exact h
  | descriptorRead => dsimp only; split; exacts [descriptorLoaded_sound h hw _ data, h]
  | headerWrite => exact closeResult_sound h.fits sw
  | resultWrite => exact leaveSwitch_sound h.fits sw

theorem slotOpSettled_sound (h : SlotSound (s.slot i)) (w : TableWhat) (res : Option (List Byte))
    (timedOut : Bool) : SlotSound ((slotOpSettled s i w res timedOut).slot i) := by
  unfold slotOpSettled
  split
  · exact h
  next sw hw =>
    split
    next hs =>
      split
      · exact slotOpOk_sound h hw hs _
      · exact slotOpFailed_sound h hw w timedOut
    · exact h

theorem takeForce_sound (h : SlotSound (s.slot i)) : SlotSound ((takeForce s i).slot i) := by
  unfold takeForce
  dsimp only
  split
  · exact h
  · split
    · refine endDraining_sound ?_
      rw [State.slot_setSlot]
      exact SlotFits.sound_of_stage ⟨h.budget, h.depth⟩ (Or.inl rfl)
    · exact h

theorem slot_answerUnboundQueues (s : State) (i j : Slot) :
    (s.answerUnboundQueues i).slot j = s.slot j := by
  unfold State.slot
  rw [slots_answerUnboundQueues]

theorem conclude_sound (h : SlotSound (s.slot i)) : SlotSound ((conclude s i).slot i) := by
  unfold conclude answerIfUnbound
  split
  · rw [slot_answerUnboundQueues]
    exact takeForce_sound h
  · exact takeForce_sound h

end Sys2Proof.Machine
end

section
/-! PROOFS. What a step can do to the stores, the slot records and the timer: every meaning is a row of
moves of a few kinds, so an invariant need only be kept by each kind of move. -/

namespace Sys2Proof.Machine

/-! ### The kinds of move -/

/-- An event of the switch engine for slot `i`. -/
structure SlotEvent (i : Slot) (s t : State) : Prop where
  frame : EngineFrame i s t
  sound : SlotSound (s.slot i) → SlotSound (t.slot i)

/-- The slot and the tag that an outstanding entry holds in use (R28). -/
def Outstanding.key (o : Outstanding) : Slot × Tag := (o.slot, o.tag)

/-- The parts of the state that a change of the stores alone leaves as they are. -/
def State.fixed (s : State) :
    DeviceState × Option RootCopy × Timer × Vector Intake 16 × Vector SlotRecord 16 × List MapEntry :=
  (s.device, s.root, s.timer, s.intake, s.slots, s.map)

/-- The parts of the state that the invariants read. -/
def State.read (s : State) :
    (DeviceState × Option RootCopy × Timer × Vector Intake 16 × Vector SlotRecord 16 × List MapEntry) ×
      List Outstanding × List TrackerEntry × Tfu × List FaultRecord × Nat :=
  (s.fixed, s.outstanding, s.tracker, s.tfu, s.log.records, s.mgmt.threshold)

/-- A change that adds to none of the stores: outstanding entries, granules and root record reads may go,
and the fault log keeps its bound. -/
structure Shrinks (s t : State) : Prop where
  fixed : t.fixed = s.fixed
  keys : (t.outstanding.map Outstanding.key).Sublist (s.outstanding.map Outstanding.key)
  tracker : t.tracker.length ≤ s.tracker.length
  rootReads : t.rootReads.length ≤ s.rootReads.length
  log : LogBounded s → LogBounded t

/-- The stores and slots after a reset (R170, R171). -/
structure AfterReset (t : State) : Prop where
  device : t.device = .direct
  root : t.root = none
  timer : t.timer.running = false
  queues : ∀ i, t.queues i = Intake.empty
  slots : ∀ i, ∃ st, t.slot i = SlotRecord.fresh st
  map : t.map = []
  outstanding : t.outstanding = []
  tracker : t.tracker = []
  rootReads : t.rootReads = []

/-- A move: what one part of an event does, with what the model has checked before it. -/
inductive Move : State → State → Prop
  | shrinks {s t : State} (h : Shrinks s t) : Move s t
  | slot {s t : State} (i : Slot) (h : SlotEvent i s t) : Move s t
  /-- An arrival that passes its checks (R26, R30). -/
  | joins {s : State} {r : Request} (h : s.refusal r = none) :
      Move s (s.setQueues r.initiator ((s.queues r.initiator).push r))
  /-- A decode that is taken leaves its queue for the outstanding table or completes (R41, R58). -/
  | places {s : State} {i : Slot} {r : Request} {js : List Judged} (w : Bool)
      (hc : s.candidate i = some r) (hd : s.decodable i = true)
      (hf : issuableCount js ≤ s.trackerFree) :
      Move s (placeDecode (s.setQueues i ((s.queues i).pop r.lane)) i r w js)
  /-- A settlement of a granule, whose slot's drain may end, lets the root record read go (R163). -/
  | settles {s u v : State} (i : Slot) (he : s.tracker ≠ []) (hu : Shrinks s u)
      (hv : SlotEvent i u v) : Move s (queueRootRead v)
  | starts {s : State} (hd : s.device = .direct) :
      Move s (queueRootRead { s with device := .starting, startResult := .none })
  /-- A root record read settles and ends the start (R165). -/
  | startFails {s u : State} (c : StartResult) (hu : Shrinks s u)
      (hr : u.rootReads.length < s.rootReads.length) : Move s (startFailed u c)
  /-- A root record read settles and makes the root copy (R166). -/
  | rootCopied {s u : State} (c : RootCopy) (hu : Shrinks s u)
      (hr : u.rootReads.length < s.rootReads.length) : Move s { u with root := some c }
  | startEnds {s : State} (hd : s.device = .starting) (hr : s.root.isSome = true) :
      Move s
        { s with
          device := .running
          timer := { s.timer with count := 0, running := decide (s.epochLength ≠ 0) } }
  | guards {s : State} (d : DeviceState) (hs : s.device.guards = true) (hd : d.guards = true) :
      Move s { s with device := d }
  | time {s : State} (tm : Timer) (hr : tm.running = s.timer.running)
      (hc : s.timer.running = true → s.timer.count < s.epochLength → tm.count < s.epochLength) :
      Move s { s with timer := tm }
  | expires (s : State) : Move s (epochExpires s)
  | resets {s t : State} (h : AfterReset t) (hl : LogBounded s → LogBounded t) : Move s t

/-- Moves in a row. -/
def Moves (s t : State) : Prop := Relation.ReflTransGen Move s t

theorem SwitchRec.report_kind (sw : SwitchRec) (st : RespStatus) : (sw.report st).kind = sw.kind := by
  unfold SwitchRec.report
  split <;> rfl

theorem SwitchRec.report_transfer (sw : SwitchRec) (st : RespStatus) :
    (sw.report st).transfer = sw.transfer := by
  unfold SwitchRec.report
  split <;> rfl

namespace SlotEvent

theorem refl (i : Slot) (s : State) : SlotEvent i s s := ⟨EngineFrame.refl i s, id⟩

theorem trans {i : Slot} {s t u : State} (a : SlotEvent i s t) (b : SlotEvent i t u) :
    SlotEvent i s u := ⟨a.frame.trans b.frame, b.sound ∘ a.sound⟩

theorem setSlot {s : State} {i : Slot} {r : SlotRecord} (h : SlotSound (s.slot i) → SlotSound r) :
    SlotEvent i s (s.setSlot i r) :=
  ⟨EngineFrame.setSlot s i r, fun hs => by rw [State.slot_setSlot]; exact h hs⟩

/-- A change of the slot's record in fields that its soundness does not read. -/
theorem setSame {s : State} {i : Slot} {r : SlotRecord}
    (h : (r.state, r.binding, r.switch, r.stack) =
      ((s.slot i).state, (s.slot i).binding, (s.slot i).switch, (s.slot i).stack)) :
    SlotEvent i s (s.setSlot i r) :=
  setSlot fun hs => hs.of_same (congrArg (·.1) h) (congrArg (·.2.1) h) (congrArg (·.2.2.1) h)
    (congrArg (·.2.2.2) h)

theorem endForce (s : State) (i : Slot) (c : ResultCode) : SlotEvent i s (s.endForce i c) :=
  ⟨EngineFrame.endForce s i c, fun hs => by
    rw [State.slot_endForce]; exact hs.of_same rfl rfl rfl rfl⟩

theorem answerUnboundQueues (s : State) (i : Slot) : SlotEvent i s (s.answerUnboundQueues i) :=
  ⟨EngineFrame.answerUnboundQueues s i, fun hs => by rw [slot_answerUnboundQueues]; exact hs⟩

theorem takeForce (s : State) (i : Slot) : SlotEvent i s (takeForce s i) :=
  ⟨takeForce_frame s i, takeForce_sound⟩

theorem conclude (s : State) (i : Slot) : SlotEvent i s (conclude s i) :=
  ⟨conclude_frame s i, conclude_sound⟩

theorem endDraining (s : State) (i : Slot) : SlotEvent i s (endDraining s i) :=
  ⟨endDraining_frame s i, endDraining_sound⟩

theorem slotOpSettled (s : State) (i : Slot) (w : TableWhat) (res : Option (List Byte))
    (timedOut : Bool) : SlotEvent i s (slotOpSettled s i w res timedOut) :=
  ⟨slotOpSettled_frame s i w res timedOut, fun h => slotOpSettled_sound h w res timedOut⟩

theorem answerUnboundSlot (s : State) (i : Slot) : SlotEvent i s (answerUnboundSlot s i) := by
  unfold Machine.answerUnboundSlot
  split
  · exact answerUnboundQueues s i
  · exact refl i s

theorem beginBoot (s : State) (i : Slot) : SlotEvent i s (beginBoot s i) :=
  ⟨beginBoot_frame s i, fun _ => startBind_sound (by rw [State.slot_setSlot])⟩

theorem reportWatch (s : State) (e : TrackerEntry) (st : RespStatus) :
    SlotEvent e.slot s (reportWatch s e st) := by
  unfold Machine.reportWatch
  split
  · refine setSlot fun hs => ?_
    cases hw : (s.slot e.slot).switch with
    | none => exact hs.of_same rfl rfl hw.symm rfl
    | some sw => exact hs.withSwitch hw (sw.report_kind st) (sw.report_transfer st)
  · exact refl _ s

theorem enableSlot (s : State) (i : Slot) : SlotEvent i s (enableSlot s i) := by
  unfold Machine.enableSlot
  split
  · exact setSame rfl
  · split
    next hoff =>
      unfold enableOff
      split
      · refine (setSlot fun hs => ?_).trans ((endDraining _ i).trans (conclude _ i))
        exact SlotFits.sound_of_stage ⟨hs.budget, hs.depth⟩ (Or.inl rfl)
      · exact setSlot fun hs =>
          SlotFits.sound_of_no_switch ⟨hs.budget, hs.depth⟩ (hs.atRest (Or.inl hoff))
    · exact refl i s

theorem answerDisabledQueues (s : State) (i : Slot) : SlotEvent i s (s.answerDisabledQueues i) := by
  refine ⟨EngineFrame.answerDisabledQueues s i, fun hs => ?_⟩
  have hslots : ∀ (l : List Request) (u : State),
      (l.foldl (fun s r => s.form (answerOf r .unsupported)) u).slots = u.slots := by
    intro l
    induction l with
    | nil => exact fun _ => rfl
    | cons r l ih => exact fun u => (ih _).trans rfl
  have : (s.answerDisabledQueues i).slot i = s.slot i := by
    unfold State.slot State.answerDisabledQueues
    rw [State.setQueues_slots, hslots]
  rw [this]
  exact hs

theorem endPending (s : State) (i : Slot) : SlotEvent i s (endPending s i) := by
  unfold Machine.endPending
  split
  · refine SlotEvent.trans ?_ (endForce _ i _)
    exact setSame rfl
  · exact refl i s

/-- A disable that completes does so in a slot that holds no switch record (R155). -/
theorem completeDisable {s : State} {i : Slot} (h : (s.slot i).state.inSwitch = false) :
    SlotEvent i s (completeDisable s i) := by
  refine ⟨completeDisable_frame s i, fun hs => completeDisable_sound (hs.atRest ?_)⟩
  revert h
  cases (s.slot i).state <;> simp [SlotState.inSwitch]

/-- The last part of a disable: it completes, or is requested where a switch runs (R155). -/
theorem disabled (s : State) (i : Slot) :
    SlotEvent i s
      (if (s.slot i).state.inSwitch then s.setSlot i { s.slot i with disableReq := true }
        else Machine.completeDisable s i) := by
  split
  · exact setSame rfl
  next hs => exact completeDisable (Bool.eq_false_iff.mpr hs)

theorem disableSlot (s : State) (i : Slot) : SlotEvent i s (disableSlot s i) := by
  unfold Machine.disableSlot
  have hheld : SlotEvent i (s.answerDisabledQueues i)
      ((s.answerDisabledQueues i).setSlot i
        { (s.answerDisabledQueues i).slot i with held := false }) := setSame rfl
  exact (((answerDisabledQueues s i).trans hheld).trans (endPending _ i)).trans (disabled _ i)

end SlotEvent

namespace Shrinks

variable {s t u : State}

theorem device (h : Shrinks s t) : t.device = s.device := congrArg (·.1) h.fixed
theorem root (h : Shrinks s t) : t.root = s.root := congrArg (·.2.1) h.fixed
theorem timer (h : Shrinks s t) : t.timer = s.timer := congrArg (·.2.2.1) h.fixed
theorem intake (h : Shrinks s t) : t.intake = s.intake := congrArg (·.2.2.2.1) h.fixed
theorem slots (h : Shrinks s t) : t.slots = s.slots := congrArg (·.2.2.2.2.1) h.fixed
theorem map (h : Shrinks s t) : t.map = s.map := congrArg (·.2.2.2.2.2) h.fixed

theorem trans (a : Shrinks s t) (b : Shrinks t u) : Shrinks s u where
  fixed := b.fixed.trans a.fixed
  keys := b.keys.trans a.keys
  tracker := b.tracker.trans a.tracker
  rootReads := b.rootReads.trans a.rootReads
  log := b.log ∘ a.log

/-- A change of nothing that the invariants read. -/
theorem of_same (h : t.read = s.read) : Shrinks s t where
  fixed := congrArg (·.1) h
  keys := by rw [show t.outstanding = s.outstanding from congrArg (·.2.1) h]
  tracker := by rw [show t.tracker = s.tracker from congrArg (·.2.2.1) h]
  rootReads := by
    unfold State.rootReads
    rw [show t.tfu = s.tfu from congrArg (·.2.2.2.1) h]
  log := by
    unfold LogBounded
    rw [show t.log.records = s.log.records from congrArg (·.2.2.2.2.1) h,
      show t.mgmt.threshold = s.mgmt.threshold from congrArg (·.2.2.2.2.2) h]
    exact id

theorem refl (s : State) : Shrinks s s := of_same rfl

/-- A change of the fault log or of its threshold alone. -/
theorem of_log (hf : t.fixed = s.fixed)
    (hk : (t.outstanding, t.tracker, t.tfu) = (s.outstanding, s.tracker, s.tfu))
    (hl : LogBounded s → LogBounded t) : Shrinks s t where
  fixed := hf
  keys := by rw [show t.outstanding = s.outstanding from congrArg (·.1) hk]
  tracker := by rw [show t.tracker = s.tracker from congrArg (·.2.1) hk]
  rootReads := by
    unfold State.rootReads
    rw [show t.tfu = s.tfu from congrArg (·.2.2) hk]
  log := hl

theorem logFault (s : State) (f : FaultRecord) : Shrinks s (s.logFault f) :=
  of_log rfl rfl fun h => ⟨FaultLog.join_bounded f h.1, h.2⟩

theorem setPool (s : State) (p : MemPort) (q : IdPool) : Shrinks s (s.setPool p q) := by
  cases p <;> exact of_same rfl

theorem drive (s : State) (p : MemPort) (x : Issue) : Shrinks s (s.drive p x) := by
  cases p <;> exact of_same rfl

end Shrinks

namespace Moves

theorem refl (s : State) : Moves s s := Relation.ReflTransGen.refl

theorem trans {s t u : State} (a : Moves s t) (b : Moves t u) : Moves s u :=
  Relation.ReflTransGen.trans a b

theorem of_move {s t : State} (h : Move s t) : Moves s t := Relation.ReflTransGen.single h

theorem of_shrinks {s t : State} (h : Shrinks s t) : Moves s t := of_move (.shrinks h)

/-- A change of nothing that the invariants read. -/
theorem same {s t : State} (h : t.read = s.read) : Moves s t := of_shrinks (.of_same h)

theorem of_slot {s t : State} {i : Slot} (h : SlotEvent i s t) : Moves s t := of_move (.slot i h)

/-- Moves one after another over a list. -/
theorem foldl {α : Type} {f : State → α → State} (hf : ∀ s a, Moves s (f s a)) (l : List α)
    (s : State) : Moves s (l.foldl f s) := by
  induction l generalizing s with
  | nil => exact refl s
  | cons a l ih => exact (hf s a).trans (ih (f s a))

/-- An invariant that every move keeps is kept by moves in a row. -/
theorem keeps {P : State → Prop} (hP : ∀ {s t}, Move s t → P s → P t) {s t : State}
    (h : Moves s t) (hs : P s) : P t := by
  induction h with
  | refl => exact hs
  | tail _ hm ih => exact hP hm ih

end Moves

/-! ### Arrivals, issues and decodes -/

theorem arrive_moves (s : State) (r : Request) : Moves s (arrive s r) := by
  unfold arrive
  split
  · exact .of_shrinks (Shrinks.trans (t := s.form _) (.of_same rfl) (Shrinks.logFault _ _))
  next h => exact .of_move (.joins h)

theorem issueGranule_moves (s : State) (p : MemPort) (e : TrackerEntry) (id : IssueId) :
    Moves s (issueGranule s p e id) := by
  unfold issueGranule
  refine .of_shrinks (Shrinks.trans ?_ ((Shrinks.setPool _ _ _).trans (Shrinks.drive _ _ _)))
  exact ⟨rfl, .refl _, (updateFirst_length _ _ _).le, le_rfl, fun h => h⟩

/-- The operation that the TFU offers stays one of those it holds when it is issued (R77). -/
theorem issueTable_rootReads {s : State} {o : TableOp} (ho : s.tfu.offer = some o) (id : IssueId) :
    (issueTable s o id).rootReads.length = s.rootReads.length := by
  obtain ⟨rest, hn, hq⟩ : ∃ rest, s.tfu.inFlight = none ∧ s.tfu.queue = o :: rest := by
    unfold Tfu.offer at ho
    split at ho
    · exact absurd ho (by simp)
    next hn => exact (List.head?_eq_some_iff.mp ho).imp fun rest hq => ⟨hn, hq⟩
  have hperm : (rest ++ [o]).Perm (o :: rest ++ []) := by simp
  unfold State.rootReads
  rw [hq, hn]
  show (List.filter _ (s.tfu.queue.tail ++ [o])).length = _
  rw [hq]
  exact (hperm.filter _).length_eq

theorem issueTable_moves {s : State} {o : TableOp} (ho : s.tfu.offer = some o) (id : IssueId) :
    Moves s (issueTable s o id) :=
  .of_shrinks ⟨rfl, .refl _, le_rfl, (issueTable_rootReads ho id).le, fun h => h⟩

theorem auxIssue_moves (s : State) : Moves s (auxIssue s) := by
  unfold auxIssue
  split
  · exact .refl s
  · split
    · exact issueGranule_moves s _ _ _
    · exact .refl s

theorem serve_moves (s : State) (side : Side) (id : IssueId) : Moves s (serve s side id) := by
  unfold serve
  cases side with
  | granule =>
    dsimp only
    split
    · exact (issueGranule_moves s _ _ _).trans (.same (by rfl))
    · exact .refl s
  | table =>
    dsimp only
    split
    next ho => exact (issueTable_moves ho id).trans (.same (by rfl))
    · exact .refl s

theorem primaryIssue_moves (s : State) : Moves s (primaryIssue s) := by
  unfold primaryIssue
  split
  · exact .refl s
  · split
    · exact serve_moves s _ _
    · exact .refl s

theorem logDecode_moves (s : State) (i : Slot) (r : Request) (js : List Judged) :
    Moves s (logDecode s i r js) := by
  unfold logDecode
  split
  · exact .of_shrinks (Shrinks.logFault s _)
  · exact .refl s

/-- A charge takes from the remaining budget (R91). -/
theorem spentBinding_le {s : State} {r : Request} {js : List Judged} {b : Binding}
    (h : b.remaining ≤ b.epochBudget) :
    (s.spentBinding r js b).remaining ≤ (s.spentBinding r js b).epochBudget := by
  unfold State.spentBinding
  dsimp only
  split
  · omega
  · exact h

theorem chargeBinding_moves (s : State) (i : Slot) (r : Request) (js : List Judged) :
    Moves s (chargeBinding s i r js) := by
  unfold chargeBinding
  split
  next b hb =>
    refine .of_slot (i := i) (.setSlot fun hs => ⟨fun x hx => ?_, hs.depth, hs.room, hs.atRest⟩)
    obtain rfl := Option.some.inj hx
    refine spentBinding_le (hs.budget b ?_)
    unfold State.decodeBinding at hb
    split at hb
    · exact absurd hb (by simp)
    · exact hb
  · exact .refl s

theorem capture_moves (s : State) (i : Slot) (sw : SwitchRec) : Moves s (capture s i sw) := by
  unfold capture
  refine .of_slot (SlotEvent.trans (SlotEvent.setSlot fun hs => ?_) (.takeForce _ i))
  exact SlotFits.sound_of_stage ⟨hs.budget, hs.depth⟩ (Or.inl rfl)

theorem takeDecode_moves {s : State} {i : Slot} {r : Request} {js : List Judged}
    (hc : s.candidate i = some r) (hd : s.decodable i = true)
    (hf : issuableCount js ≤ s.trackerFree) : Moves s (takeDecode s i r js) := by
  have hplace := fun w => ((Moves.of_move (.places (js := js) w hc hd hf)).trans
    (logDecode_moves _ i r js)).trans (chargeBinding_moves _ i r js)
  cases hw : s.watchWindow i r js with
  | none => rw [takeDecode_of_noWatch hw]; exact hplace false
  | some w => rw [takeDecode_of_watch hw]; exact (hplace true).trans (capture_moves _ i _)

theorem attempt_moves {s : State} {i : Slot} {r : Request} (hc : s.candidate i = some r)
    (hd : s.decodable i = true) : Moves s (attempt s i r) := by
  have key : Moves s
      (match attemptOutcome s i r (decodeRequest s i r) with
        | .taken => takeDecode s i r (decodeRequest s i r)
        | .held => s.setSlot i { s.slot i with held := true }
        | .notTaken => s) := by
    split
    next ho =>
      refine takeDecode_moves hc hd ?_
      unfold attemptOutcome at ho
      split_ifs at ho with h1 h2
      exact Nat.not_lt.mp h2
    · exact .of_slot (i := i) (.setSame rfl)
    · exact .refl s
  exact key.trans (.same (by rfl))

theorem decodeStep_moves (s : State) : Moves s (decodeStep s) := by
  unfold decodeStep
  split
  · exact .refl s
  next i hi =>
    split
    next r hr => exact attempt_moves hr (by simpa using List.find?_some hi)
    · exact .refl s

theorem sendCompletion_moves (s : State) : Moves s (sendCompletion s) := by
  unfold sendCompletion
  split
  · exact .refl s
  · exact .same rfl

/-! ### Device states -/

theorem deviceProgress_moves (s : State) : Moves s (deviceProgress s) := by
  unfold deviceProgress
  split
  next hs =>
    simp only [State.startEnds, Bool.and_eq_true, decide_eq_true_iff] at hs
    exact ((Moves.of_move (.startEnds hs.1.1 hs.1.2)).trans (.same (by rfl))).trans
      (.foldl (fun t i => .of_slot (.answerUnboundSlot t i)) _ _)
  · split
    next hq =>
      simp only [State.quiesceEnds, Bool.and_eq_true, decide_eq_true_iff] at hq
      exact (Moves.of_move (.guards .quiesced (by rw [hq.1.1.1]; rfl) rfl)).trans (.same (by rfl))
    · exact .refl s

theorem startCommand_moves (s : State) : Moves s (startCommand s).2 := by
  unfold startCommand
  split
  next hd => exact .of_move (.starts hd.1)
  · exact .refl s

theorem quiesceCommand_moves (s : State) : Moves s (quiesceCommand s).2 := by
  unfold quiesceCommand
  split
  next hd =>
    exact (Moves.of_move (.guards .quiescing (by rw [hd]; rfl) rfl)).trans (deviceProgress_moves _)
  · exact .refl s

theorem resumeCommand_moves (s : State) : Moves s (resumeCommand s).2 := by
  unfold resumeCommand
  split
  next hd =>
    have hg : s.device.guards = true := by rcases hd with hd | hd <;> rw [hd] <;> rfl
    exact (((Moves.of_move (.guards .running hg rfl)).trans (.same (by rfl))).trans
      (.foldl (fun t i => .of_slot (.takeForce t i)) _ _)).trans
      (.foldl (fun t i => .of_slot (.answerUnboundSlot t i)) _ _)
  · exact .refl s

/-! ### Settlements (R64, R77 to R82) -/

theorem isOf_key {o : Outstanding} {e : TrackerEntry} (h : o.isOf e = true) :
    o.key = (e.slot, e.tag) :=
  have ⟨hi, ht⟩ := (isOf_iff o e).mp h
  Prod.ext hi ht

theorem settleRequest_shrinks (s : State) (e : TrackerEntry) (x : Settlement) :
    Shrinks s (settleRequest s e x) := by
  unfold settleRequest
  split
  next o ho =>
    have hkey := isOf_key (by simpa using List.find?_some ho)
    unfold putSettled
    split
    · have hmap := updateFirst_map (·.isOf e)
        (fun _ => o.settle e x.status (s.fitData x.data e.count)) Outstanding.key s.outstanding
        fun y _ hy => hkey.trans (isOf_key hy).symm
      exact ⟨rfl, hmap ▸ List.Sublist.refl _, le_rfl, le_rfl, id⟩
    · exact ⟨rfl, List.eraseP_sublist.map _, le_rfl, le_rfl, id⟩
  · exact .refl s

theorem logSettlement_shrinks (s : State) (e : TrackerEntry) (x : Settlement) :
    Shrinks s (logSettlement s e x) := by
  unfold logSettlement
  split
  · exact .logFault s _
  · exact .refl s

theorem releaseGranule_shrinks (s : State) (p : MemPort) (id : IssueId) (st : IdState) :
    Shrinks s (releaseGranule s p id st) := by
  unfold releaseGranule
  refine Shrinks.trans ?_ (.setPool _ _ _)
  exact ⟨rfl, .refl _, List.eraseP_sublist.length_le, le_rfl, fun h => h⟩

theorem settleGranule_moves (s : State) (p : MemPort) (id : IssueId) {e : TrackerEntry}
    (he : e ∈ s.tracker) (x : Settlement) : Moves s (settleGranule s p id e x) := by
  have hu := (((releaseGranule_shrinks s p id x.idState).trans (logSettlement_shrinks _ e x)).trans
    (settleRequest_shrinks _ e x)).trans
    (u := State.spendFree _ (e.count - x.data.length)) (.of_same rfl)
  unfold settleGranule afterGranule
  refine Moves.trans (.of_move (.settles e.slot (List.ne_nil_of_mem he) hu ?_))
    (deviceProgress_moves _)
  refine (SlotEvent.reportWatch _ e x.status).trans ?_
  split
  · exact (SlotEvent.endDraining _ _).trans (.conclude _ _)
  · exact .refl _ _

theorem releaseTable_rootReads {s : State} {f : TfuFlight} (hf : s.tfu.inFlight = some f)
    (id : IssueId) (st : IdState) (n : Nat) :
    s.rootReads.length = ((releaseTable s id st).spendFree n).rootReads.length +
      (if f.operation.owner = none then 1 else 0) := by
  unfold State.rootReads
  rw [hf]
  show _ = (List.filter _ (s.tfu.queue ++ [])).length + _
  rw [List.filter_append, List.append_nil, List.length_append]
  congr 1
  cases ho : f.operation.owner <;> simp [ho]

theorem rootSettled_moves {s u : State} (hu : Shrinks s u)
    (hr : u.rootReads.length < s.rootReads.length) (res : Option (List Byte)) :
    Moves s (rootSettled u res) := by
  unfold rootSettled
  split
  · exact .of_move (.startFails _ hu hr)
  · split
    · exact ((Moves.of_move (.rootCopied _ hu hr)).trans (.same (by rfl))).trans
        (.foldl (fun t i => .of_slot (.beginBoot t i)) _ _)
    · exact .of_move (.startFails _ hu hr)

theorem settleTable_moves {s : State} {f : TfuFlight} (hf : s.tfu.inFlight = some f)
    (x : Settlement) : Moves s (settleTable s f x) := by
  have hr := releaseTable_rootReads hf f.flight.id x.idState (f.operation.length - x.data.length)
  have hu : Shrinks s ((releaseTable s f.flight.id x.idState).spendFree
      (f.operation.length - x.data.length)) :=
    ⟨rfl, .refl _, le_rfl, by omega, id⟩
  unfold settleTable handOutcome
  refine Moves.trans ?_ (deviceProgress_moves _)
  split
  next i _ =>
    exact (Moves.of_shrinks hu).trans (.of_slot ((SlotEvent.slotOpSettled _ i _ _ _).trans
      (.conclude _ i)))
  next ho =>
    rw [if_pos ho] at hr
    exact rootSettled_moves hu (by omega) _

theorem settle_moves (s : State) (p : MemPort) (id : IssueId) (x : Settlement) :
    Moves s (settle s p id x) := by
  unfold settle
  split
  next e he => exact settleGranule_moves s p id (List.mem_of_find?_eq_some he) x
  · split
    next f hf =>
      refine settleTable_moves ?_ x
      unfold State.tableFlight at hf
      split at hf
      · exact (Option.filter_eq_some_iff.mp hf).1
      · exact absurd hf (by simp)
    · exact .refl s

theorem respond_moves (s : State) (p : MemPort) (id : IssueId) (st : RespStatus)
    (data : List Byte) : Moves s (respond s p id st data) := by
  unfold respond
  split
  · exact .refl s
  · exact .of_shrinks (.setPool s p _)
  · exact settle_moves s p id _

/-! ### Time (R82, R95) -/

theorem later_moves (s : State) (d : Nat) : Moves s (s.later d) :=
  .of_move (.time _ rfl fun _ h => h)

/-- A count taken modulo the epoch length stays short of it. -/
theorem passTime_moves (s : State) (d : Nat) : Moves s (passTime s d) := by
  unfold passTime
  dsimp only
  split
  · split
    next hd => exact (later_moves s d).trans (.of_move (.time _ rfl fun _ _ => hd))
    · refine ((later_moves s d).trans (.of_move (.expires _))).trans
        (.of_move (.time _ rfl fun _ hc => Nat.mod_lt _ (Nat.zero_lt_of_lt hc)))
  · exact later_moves s d

theorem passUntil_moves (s : State) (d : Nat) : Moves s (passUntil s d) :=
  (passTime_moves s (d - 1)).trans (later_moves _ 1)

/-- Events taken in a free order. -/
theorem Moves.inOrder {l : List (State → State)} (h : ∀ e ∈ l, ∀ s, Moves s (e s)) (s : State) :
    Moves s (l.foldl (fun t e => e t) s) := by
  induction l generalizing s with
  | nil => exact .refl s
  | cons e l ih =>
    exact (h e (List.mem_cons_self ..) s).trans (ih (fun x hx => h x (List.mem_cons_of_mem _ hx)) _)

theorem expire_moves (s : State) (p : MemPort) (id : IssueId) : Moves s (expire s p id) := by
  unfold expire
  split
  · split
    · exact .refl s
    · dsimp only
      split
      · refine ((passUntil_moves s _).trans (.same (by rfl))).trans (.inOrder (fun e he t => ?_) _)
        rcases List.mem_pair.mp (mem_freeOrder.mp he) with rfl | rfl
        · exact settle_moves t p id .timeout
        · exact .of_move (.expires t)
      · exact (passTime_moves s _).trans (settle_moves _ p id _)
  · exact .refl s

theorem limitWritten_moves (s : State) (limit : BitVec 12) : Moves s (limitWritten s limit) := by
  unfold limitWritten
  exact (Moves.same (by rfl)).trans 
    (.foldl (fun t (x : MemPort × IssueId) => settle_moves t x.1 x.2 .timeout) _ _)

theorem takeEpochExpiry_moves (s : State) : Moves s (takeEpochExpiry s) := by
  unfold takeEpochExpiry
  split
  · exact (later_moves s _).trans (.of_move (.expires _))
  · exact .refl s

theorem idle_moves (s : State) : Moves s (idle s) := by
  unfold idle tick
  split
  · split
    · exact (later_moves s _).trans (.of_move (.expires _))
    · exact passTime_moves s 1
  · exact (Moves.same (by rfl)).trans (settle_moves _ _ _ .timeout)

/-! ### Resets (R45, R170, R171) -/

theorem deviceReset_moves (s : State) : Moves s (deviceReset s) := by
  refine .of_move (.resets ⟨rfl, rfl, rfl, fun i => ?_, fun i => ?_, rfl, rfl, rfl, rfl⟩
    fun h => ⟨Nat.zero_le _, h.2⟩)
  · exact Vector.getElem_replicate ..
  · exact ⟨resetSlotState s.mgmt.slotEnable i.val, by simp [deviceReset, State.slot]⟩

theorem powerOnReset_moves (s : State) : Moves s (powerOnReset s) := by
  refine .of_move (.resets ⟨rfl, rfl, rfl, fun i => ?_, fun i => ?_, rfl, rfl, rfl, rfl⟩
    fun _ => ⟨Nat.zero_le _, le_refl 1, Nat.le_add_left 1 31⟩)
  · exact Vector.getElem_replicate ..
  · exact ⟨.unbound, Vector.getElem_replicate ..⟩

theorem releaseReset_moves (s : State) : Moves s (releaseReset s) := by
  unfold releaseReset
  exact (Moves.same (by rfl)).trans (.foldl arrive_moves _ _)

/-! ### Register writes and management frames (R172 to R177) -/

theorem forceCommand_moves (s : State) (i : Slot) (f : PendingForce) :
    Moves s (forceCommand i f s).2 := by
  unfold forceCommand acceptForce
  split_ifs
  · exact .refl s
  · exact .refl s
  · exact .of_slot (.endForce s i _)
  · exact .of_slot (.endForce s i _)
  · refine .of_slot (SlotEvent.trans ?_ (.conclude _ i))
    exact .setSame rfl

theorem cancelCommand_moves (s : State) (i : Slot) : Moves s (cancelCommand i s).2 := by
  unfold cancelCommand
  split
  · have hdrop : SlotEvent i s (s.setSlot i { s.slot i with pendingForce := none }) := .setSame rfl
    exact (Moves.of_slot (hdrop.trans (.endForce _ i .cancelled))).trans (.same (by rfl))
  · exact .same rfl

theorem slotEnableCommand_moves (s : State) (v : BitVec 16) :
    Moves s (slotEnableCommand v s).2 := by
  unfold slotEnableCommand
  refine (Moves.same (by rfl)).trans (.foldl (fun t i => .of_slot (i := i) ?_) _ _)
  unfold slotBitChanged
  split
  · exact .enableSlot t i
  · exact .disableSlot t i

theorem logRestart_shrinks (s : State) : Shrinks s { s with log := { s.log with word := 0 } } := .of_same rfl

theorem commandWritten_moves (s : State) (v : Word) : Moves s (commandWritten v s).2 := by
  unfold commandWritten
  split
  · exact startCommand_moves s
  · exact deviceReset_moves s
  · exact quiesceCommand_moves s
  · exact resumeCommand_moves s
  · exact .of_shrinks (logRestart_shrinks s)
  · exact .refl s

theorem noticeThresholdCommand_moves (s : State) (v : Word) :
    Moves s (noticeThresholdCommand v s).2 := by
  unfold noticeThresholdCommand
  split
  next hv => exact .of_shrinks (.of_log rfl rfl fun h => ⟨h.1, hv⟩)
  · exact .refl s

theorem registerWritten_moves (s : State) (n : BitVec 16) (v : Word) :
    Moves s (registerWritten n v s).2 := by
  unfold registerWritten
  split
  · exact .same rfl
  · exact .same rfl
  · exact commandWritten_moves s v
  · exact slotEnableCommand_moves s _
  · unfold responseLimitCommand; split; exacts [limitWritten_moves s _, .refl s]
  · unfold forceWritten
    split
    exacts [forceCommand_moves s _ _, forceCommand_moves s _ _, .refl s]
  · exact cancelCommand_moves s _
  · unfold slotSelectCommand; split; exacts [.same rfl, .refl s]
  · exact .same rfl
  · exact .same rfl
  · exact noticeThresholdCommand_moves s v
  all_goals exact .refl s

theorem readTaken_moves (s : State) (n : BitVec 16) : Moves s (readTaken n s) := by
  unfold readTaken
  split
  · exact .same rfl
  · exact .same rfl
  · exact .refl s

/-- A LOG_DATA read adds no record (R177). -/
theorem advance_length (l : FaultLog) : l.advance.records.length ≤ l.records.length := by
  unfold FaultLog.advance
  split
  · exact le_refl _
  next hl =>
    split
    · rw [hl]; exact Nat.le_succ _
    · exact le_refl _

theorem readEnded_moves (s : State) (n : BitVec 16) : Moves s (readEnded n s).2 := by
  unfold readEnded
  split
  · exact .refl s
  · dsimp only
    split
    · exact .of_shrinks (.of_log rfl rfl fun h => ⟨(advance_length s.log).trans h.1, h.2⟩)
    · exact .refl s

theorem atByte3_moves (s : State) (f : List Byte) : Moves s (atByte3 f s).1 := by
  unfold atByte3
  split
  · exact readTaken_moves s _
  · exact .refl s

theorem atByte7_moves (s : State) (f : List Byte) : Moves s (atByte7 f s).2 := by
  unfold atByte7
  split
  · exact registerWritten_moves s _ _
  · split
    · exact readEnded_moves s _
    · exact .refl s

theorem clockFrame_moves (s : State) (f : List Byte) (v : Word) (bs : List Byte) :
    Moves s (clockFrame s f v bs) := by
  have h3 : Moves s
      (if f.length < 3 ∧ 3 ≤ (f ++ bs).length then atByte3 (f ++ bs) s else (s, v)).1 := by
    split
    · exact atByte3_moves s _
    · exact .refl s
  unfold clockFrame
  dsimp only
  revert h3
  generalize (if f.length < 3 ∧ 3 ≤ (f ++ bs).length then atByte3 (f ++ bs) s else (s, v)) = a
  intro h3
  split
  · exact (h3.trans (atByte7_moves a.1 _)).trans (.same (by rfl))
  · exact h3.trans (.same (by rfl))

theorem wholeFrame_moves (s : State) (bs : List Byte) : Moves s (wholeFrame bs s) := by
  unfold wholeFrame
  split
  · exact clockFrame_moves s _ _ _
  · have hd : Moves s (deselect s) := .same rfl
    exact (hd.trans (clockFrame_moves _ [] 0 bs)).trans (.same (by rfl))
  · exact .refl s
  · exact .refl s

theorem clockBytes_moves (s : State) (bs : List Byte) : Moves s (clockBytes bs s) := by
  unfold clockBytes
  split
  · exact .refl s
  · split
    · exact clockFrame_moves s _ _ _
    · exact clockFrame_moves s _ _ _
    · exact .refl s
    · exact .refl s

theorem readLog_moves (s : State) (x : ReadExtent) : Moves s (readLog x s) := by
  unfold readLog
  split
  · exact wholeFrame_moves s _
  · exact clockFrame_moves s _ _ _
  · exact clockFrame_moves s _ _ _
  · exact .refl s
  · exact .refl s
  · split
    · exact clockFrame_moves s _ _ _
    · exact .refl s
  all_goals exact .refl s

theorem select_shrinks (s : State) : Shrinks s (select s) := by
  unfold select
  split
  · exact .of_same rfl
  all_goals exact .refl s

theorem frameBegun_moves (s : State) (frame : Option (List Byte)) :
    Moves s (frameBegun frame s) := by
  unfold frameBegun
  split
  · exact .refl s
  · exact (Moves.of_shrinks (select_shrinks s)).trans (clockBytes_moves _ _)

/-! ### Every step -/

/-- What a finished event leaves is what its parts did, and the notice line. -/
theorem moves_of_finish {s u t : State} (h : Moves s u) (hf : finish u = .next t) : Moves s t := by
  obtain rfl : u.latchNotice = t := Host.Outcome.next.inj hf
  exact h.trans (.same (by rfl))

theorem exec_moves {c : Instr} {s t : State} (h : exec c s = .next t) : Moves s t := by
  cases c with
  | requestArrival r =>
    refine moves_of_finish ?_ h
    split
    · exact .same rfl
    · exact arrive_moves s r
  | decodeAttempt => exact moves_of_finish (decodeStep_moves s) h
  | completionSend => exact moves_of_finish (sendCompletion_moves s) h
  | auxPortIssue => exact moves_of_finish (auxIssue_moves s) h
  | primaryPortIssue => exact moves_of_finish (primaryIssue_moves s) h
  | responseArrival p id st data => exact moves_of_finish (respond_moves s p id st data) h
  | responseLimitExpiry p id => exact moves_of_finish (expire_moves s p id) h
  | epochExpiry => exact moves_of_finish (takeEpochExpiry_moves s) h
  | logDataRead x => exact moves_of_finish (readLog_moves s x) h
  | resetInput =>
    exact moves_of_finish ((Moves.same (by rfl)).trans
      (deviceReset_moves { s with resetHeld := true })) h
  | resetInputRelease => exact moves_of_finish (releaseReset_moves s) h
  | powerOnReset frame =>
    exact moves_of_finish ((frameBegun_moves s frame).trans (powerOnReset_moves _)) h
  | chipSelectHigh bytes =>
    exact moves_of_finish ((clockBytes_moves s bytes).trans (.same (by rfl))) h
  | _ => exact moves_of_finish (wholeFrame_moves s _) h

theorem step_moves {s t : State} (h : step s = .next t) : Moves s t := by
  unfold step at h
  split at h
  · exact moves_of_finish (idle_moves s) h
  · exact (Moves.same (by rfl)).trans (exec_moves h)

end Sys2Proof.Machine
end

section
/-! PROOFS. The invariants of the block: each is kept by every kind of move, so every step keeps it. -/

namespace Sys2Proof.Machine

/-! ### Moves that add to no store -/

/-- The queues stay or are emptied, keys and granules only go, the log keeps its bound and the binding map
its soundness. -/
structure Drops (s t : State) : Prop where
  queues : ∀ i, t.queues i = s.queues i ∨ t.queues i = Intake.empty := by exact fun _ => Or.inl rfl
  keys : (t.outstanding.map Outstanding.key).Sublist (s.outstanding.map Outstanding.key) := by
    exact List.Sublist.refl _
  tracker : t.tracker.length ≤ s.tracker.length := by exact le_refl _
  log : LogBounded s → LogBounded t := by exact fun h => h
  map : MapSound s → MapSound t := by exact fun h => h

namespace Drops

theorem trans {s t u : State} (a : Drops s t) (b : Drops t u) : Drops s u where
  queues := fun i => by
    rcases b.queues i with hb | hb
    · rw [hb]; exact a.queues i
    · exact Or.inr hb
  keys := b.keys.trans a.keys
  tracker := b.tracker.trans a.tracker
  log := b.log ∘ a.log
  map := b.map ∘ a.map

theorem of_shrinks {s t : State} (h : Shrinks s t) : Drops s t where
  queues := fun i => Or.inl (by unfold State.queues; rw [h.intake])
  keys := h.keys
  tracker := h.tracker
  log := h.log
  map := fun hs => by unfold MapSound; rw [h.map]; exact hs

theorem of_slot {s t : State} {i : Slot} (h : EngineFrame i s t) : Drops s t where
  queues := fun j => by
    by_cases hj : j = i
    · rw [hj]; exact h.ownQueues
    · exact Or.inl (h.otherQueues j hj)
  keys := by rw [h.outstanding]
  tracker := by rw [h.tracker]
  log := h.log
  map := h.map

theorem queueRootRead (s : State) : Drops s (queueRootRead s) := by
  unfold Machine.queueRootRead
  split <;> exact {}

theorem of_reset {s t : State} (h : AfterReset t) (hl : LogBounded s → LogBounded t) :
    Drops s t where
  queues := fun i => Or.inr (h.queues i)
  keys := by rw [h.outstanding]; exact List.nil_sublist _
  tracker := by rw [h.tracker]; exact Nat.zero_le _
  log := hl
  map := fun _ => by unfold MapSound; rw [h.map]; exact ⟨List.nodup_nil, Nat.zero_le _⟩

end Drops

/-- A request leaves its slot's queue for the outstanding table or completes, the tracker having room for
its granules (R41, R58). -/
def Placed (s t : State) : Prop :=
  ∃ i r js w, s.candidate i = some r ∧ s.decodable i = true ∧ issuableCount js ≤ s.trackerFree ∧
    t = placeDecode (s.setQueues i ((s.queues i).pop r.lane)) i r w js

/-- A request joins its queue (R30). -/
def Joined (s t : State) : Prop :=
  ∃ r, s.refusal r = none ∧ t = s.setQueues r.initiator ((s.queues r.initiator).push r)

/-- Only arrivals and taken decodes add to a store. -/
theorem Move.drops {s t : State} (h : Move s t) : Drops s t ∨ Joined s t ∨ Placed s t := by
  cases h with
  | shrinks h => exact Or.inl (.of_shrinks h)
  | slot i h => exact Or.inl (.of_slot h.frame)
  | joins h => exact Or.inr (Or.inl ⟨_, h, rfl⟩)
  | places w hc hd hf => exact Or.inr (Or.inr ⟨_, _, _, w, hc, hd, hf, rfl⟩)
  | settles i he hu hv =>
    exact Or.inl (((Drops.of_shrinks hu).trans (.of_slot hv.frame)).trans (.queueRootRead _))
  | starts hd => exact Or.inl (Drops.trans {} (.queueRootRead _))
  | startFails c hu hr =>
    exact Or.inl ((Drops.of_shrinks hu).trans { log := fun h => ⟨FaultLog.join_bounded _ h.1, h.2⟩ })
  | rootCopied c hu hr => exact Or.inl ((Drops.of_shrinks hu).trans {})
  | startEnds hd hr => exact Or.inl {}
  | guards d hs hd => exact Or.inl {}
  | time tm hr hc => exact Or.inl {}
  | expires => exact Or.inl {}
  | resets h hl => exact Or.inl (.of_reset h hl)

/-! ### Taken decodes -/

/-- A taken decode completes its request, or gives it an entry and its issuable granules places in the
tracker. -/
theorem placeDecode_cases (s : State) (i : Slot) (r : Request) (w : Bool) (js : List Judged) :
    (∃ c, placeDecode s i r w js = (s.form c).spendFree r.length) ∨
      (placeDecode s i r w js =
        { s with
            outstanding := s.outstanding ++ [outstandingOf s i r js]
            tracker := s.tracker ++ allWork i r w js }.spendFree r.length ∧
        (allWork i r w js).length = issuableCount js) := by
  have hlen : (allWork i r w js).length = (js.filter fun j => j.outcome.isIssuable).length := by
    unfold allWork
    rw [List.length_filterMap_eq_countP, List.countP_eq_length_filter.symm]
    have hp : (fun x : Judged × Nat => (granuleWork i r w x.1 x.2).isSome) =
        (fun j : Judged => j.outcome.isIssuable) ∘ Prod.fst := by
      funext x
      unfold granuleWork
      cases h : x.1.outcome <;> simp [h, GranuleOutcome.isIssuable]
    rw [hp, ← List.countP_map, List.zipIdx_map_fst]
  match js with
  | [] => exact Or.inr ⟨rfl, rfl⟩
  | { outcome := .failed f, exempt := _ } :: _ => exact Or.inl ⟨_, rfl⟩
  | { outcome := .issuable a p, exempt := _ } :: _ => exact Or.inr ⟨rfl, hlen⟩

/-! ### The fault log and the binding map -/

theorem LogBounded.move {s t : State} (h : Move s t) (hs : LogBounded s) : LogBounded t := by
  rcases h.drops with hd | ⟨r, _, rfl⟩ | ⟨i, r, js, w, _, _, _, rfl⟩
  · exact hd.log hs
  · exact hs
  · rcases placeDecode_cases (s.setQueues i ((s.queues i).pop r.lane)) i r w js with
      ⟨c, hp⟩ | ⟨hp, _⟩ <;> rw [hp] <;> exact hs

theorem MapSound.move {s t : State} (h : Move s t) (hs : MapSound s) : MapSound t := by
  rcases h.drops with hd | ⟨r, _, rfl⟩ | ⟨i, r, js, w, _, _, _, rfl⟩
  · exact hd.map hs
  · exact hs
  · rcases placeDecode_cases (s.setQueues i ((s.queues i).pop r.lane)) i r w js with
      ⟨c, hp⟩ | ⟨hp, _⟩ <;> rw [hp] <;> exact hs

/-- Settles O57: entries join the map only by a claim, of an address that is not in it (R112). -/
theorem recordAddressesStayUniqueInTheMap : Obligations.RecordAddressesStayUniqueInTheMap :=
  fun _ _ hs h => (step_moves h).keeps MapSound.move hs

/-! ### The places of the stores (R30, 2.6, 4.1) -/

/-- The queues of a slot within their places (R30). -/
def Intake.Fits (q : Intake) : Prop := q.regular.length ≤ 4 ∧ q.priority.length ≤ 2

theorem Intake.Fits.pop {q : Intake} (h : q.Fits) (l : Lane) : (q.pop l).Fits := by
  cases l with
  | regular => exact ⟨(List.tail_sublist _).length_le.trans h.1, h.2⟩
  | priority => exact ⟨h.1, (List.tail_sublist _).length_le.trans h.2⟩

theorem Intake.Fits.push {s : State} {r : Request} (h : (s.queues r.initiator).Fits)
    (hr : ¬ QueueFull s r) : ((s.queues r.initiator).push r).Fits := by
  unfold QueueFull at hr
  unfold Intake.push
  split
  next hl => exact ⟨by simp [hl] at hr ⊢; omega, h.2⟩
  next hl => exact ⟨h.1, by simp [hl] at hr ⊢; omega⟩

/-- An admitted request passes every check of R26. -/
theorem admitted_iff (s : State) (r : Request) :
    s.refusal r = none ↔ ¬ FormFails r ∧ ¬ TagTaken s r ∧ ¬ SlotShut s r ∧ ¬ UnboundShut s r ∧
      ¬ QueueFull s r := by
  rw [refusal_eq]
  split_ifs <;> simp_all

theorem queuesFit_setQueues {s : State} {i : Slot} {q : Intake} (h : ∀ j, (s.queues j).Fits)
    (hq : q.Fits) (j : Slot) : ((s.setQueues i q).queues j).Fits := by
  by_cases hj : j = i
  · rw [hj, State.queues_setQueues]; exact hq
  · rw [State.queues_setQueues_ne _ _ hj]; exact h j

theorem StoresBounded.move {s t : State} (h : Move s t) (hs : StoresBounded s) :
    StoresBounded t := by
  obtain ⟨hq, ho, ht⟩ := hs
  rcases h.drops with hd | ⟨r, hr, rfl⟩ | ⟨i, r, js, w, hc, hd, hf, rfl⟩
  · refine ⟨fun i => ?_, ?_, hd.tracker.trans ht⟩
    · rcases hd.queues i with hi | hi <;> rw [hi]
      · exact hq i
      · exact ⟨Nat.zero_le _, Nat.zero_le _⟩
    · have := hd.keys.length_le
      simp only [List.length_map] at this
      exact this.trans ho
  · have hroom := ((admitted_iff s r).mp hr).2.2.2.2
    exact ⟨queuesFit_setQueues hq (Intake.Fits.push (hq _) hroom), ho, ht⟩
  · have hqs := queuesFit_setQueues (i := i) hq (Intake.Fits.pop (hq i) r.lane)
    rcases placeDecode_cases (s.setQueues i ((s.queues i).pop r.lane)) i r w js with
      ⟨c, hp⟩ | ⟨hp, hlen⟩ <;> rw [hp]
    · exact ⟨hqs, ho, ht⟩
    · have hfree : s.outstanding.length < 64 := ((decodable_iff s i).mp hd).2.1
      refine ⟨hqs, ?_, ?_⟩
      · show (s.outstanding ++ [_]).length ≤ 64
        rw [List.length_append, List.length_singleton]
        exact hfree
      · show (s.tracker ++ allWork i r w js).length ≤ 128
        rw [List.length_append, hlen]
        unfold State.trackerFree Config.trackerEntries at hf
        omega

/-! ### The slot records -/

theorem SlotsSound.of_slots {s t : State} (h : SlotsSound s) (hs : t.slots = s.slots) :
    SlotsSound t := fun i => by
  unfold State.slot
  rw [hs]
  exact h i

theorem SlotsSound.of_slot {s t : State} {i : Slot} (h : SlotsSound s) (ht : SlotEvent i s t) :
    SlotsSound t := fun j => by
  by_cases hj : j = i
  · rw [hj]; exact ht.sound (h i)
  · rw [ht.frame.otherSlots j hj]; exact h j

theorem SlotSound.fresh (st : SlotState) : SlotSound (SlotRecord.fresh st) :=
  SlotFits.sound_of_no_switch ⟨by simp [SlotRecord.fresh], Nat.zero_le _⟩ rfl

theorem SlotSound.expiry {r : SlotRecord} (h : SlotSound r) : SlotSound r.expiry where
  budget := fun b hb => by
    obtain ⟨x, _, rfl⟩ := Option.map_eq_some_iff.mp hb
    exact le_refl _
  depth := h.depth
  room := h.room
  atRest := h.atRest

theorem queueRootRead_cases (s : State) :
    (queueRootRead s = s.queueTable (rootRead s.rootAddr) ∧ s.device = .starting ∧ s.root = none ∧
      s.tracker = []) ∨ queueRootRead s = s := by
  unfold queueRootRead
  split
  next h => exact Or.inl ⟨rfl, h⟩
  · exact Or.inr rfl

theorem queueRootRead_slots (s : State) : (queueRootRead s).slots = s.slots := by
  rcases queueRootRead_cases s with ⟨h, _⟩ | h
  · rw [h]; rfl
  · rw [h]

theorem placeDecode_slots (s : State) (i : Slot) (r : Request) (w : Bool) (js : List Judged) :
    (placeDecode s i r w js).slots = s.slots := by
  rcases placeDecode_cases s i r w js with ⟨c, h⟩ | ⟨h, _⟩ <;> rw [h] <;> rfl

theorem SlotsSound.move {s t : State} (h : Move s t) (hs : SlotsSound s) : SlotsSound t := by
  cases h with
  | shrinks h => exact hs.of_slots h.slots
  | slot i h => exact hs.of_slot h
  | joins h => exact hs.of_slots rfl
  | places w hc hd hf => exact hs.of_slots (placeDecode_slots _ _ _ _ _)
  | settles i he hu hv =>
    exact ((hs.of_slots hu.slots).of_slot hv).of_slots (queueRootRead_slots _)
  | starts hd => exact hs.of_slots (queueRootRead_slots _)
  | startFails c hu hr => exact hs.of_slots hu.slots
  | rootCopied c hu hr => exact hs.of_slots hu.slots
  | startEnds hd hr => exact hs.of_slots rfl
  | guards d hg hd => exact hs.of_slots rfl
  | time tm hr hc => exact hs.of_slots rfl
  | expires =>
    intro i
    rw [show (epochExpires s).slot i = (s.slot i).expiry by simp [State.slot, epochExpires]]
    exact (hs i).expiry
  | resets h hl =>
    intro i
    obtain ⟨st, hst⟩ := h.slots i
    rw [hst]
    exact .fresh st

/-- Settles O58: every operation of the switch engine leaves its slot's record sound, whatever a commit
pushes having had its place checked at the gate (R102, R106). -/
theorem slotRecordsStaySound : Obligations.SlotRecordsStaySound :=
  fun _ _ hs h => (step_moves h).keeps SlotsSound.move hs

/-! ### The start and the timer -/

namespace StartSound

variable {s t : State}

/-- Outside the wait of STARTING the TFU holds no root record read. -/
theorem noRead (h : StartSound s)
    (hw : ¬ (s.device = .starting ∧ s.root = none ∧ s.tracker = [])) : s.rootReads = [] := by
  by_contra hr
  exact hw (h.readWaits hr)

theorem of_noRead (hr : t.rootReads = []) (hd : t.device = .direct → t.root = none)
    (ht : t.timer.running = true → Guarding t ∧ t.timer.count < t.epochLength) : StartSound t where
  direct := hd
  oneRead := by rw [hr]; exact Nat.zero_le 1
  readWaits := fun hx => absurd hr hx
  timer := ht

theorem epochLength_congr (h : t.root = s.root) : t.epochLength = s.epochLength := by
  unfold State.epochLength; rw [h]

/-- Where device, root copy and timer stay and no root record read or granule joins. -/
theorem of_le (h : StartSound s) (hd : t.device = s.device) (hr : t.root = s.root)
    (ht : t.timer = s.timer) (hn : t.rootReads.length ≤ s.rootReads.length)
    (hk : t.tracker.length ≤ s.tracker.length) : StartSound t where
  direct := by rw [hd, hr]; exact h.direct
  oneRead := hn.trans h.oneRead
  readWaits := fun hx => by
    have hs : s.rootReads ≠ [] := by
      rintro h0
      rw [h0] at hn
      exact hx (List.eq_nil_of_length_eq_zero (Nat.le_zero.mp hn))
    obtain ⟨h1, h2, h3⟩ := h.readWaits hs
    rw [h3] at hk
    exact ⟨hd.trans h1, hr.trans h2, List.eq_nil_of_length_eq_zero (Nat.le_zero.mp hk)⟩
  timer := by unfold Guarding; rw [ht, hd, epochLength_congr hr]; exact h.timer

theorem of_shrinks (h : StartSound s) (hu : Shrinks s t) : StartSound t :=
  h.of_le hu.device hu.root hu.timer hu.rootReads hu.tracker

theorem of_slot {i : Slot} (h : StartSound s) (hv : EngineFrame i s t) : StartSound t :=
  h.of_le hv.device hv.root hv.timer (congrArg List.length (rootReads_of_frame hv)).le
    (congrArg List.length hv.tracker).le

/-- The root record read is queued where the TFU holds none (R163). -/
theorem queueRootRead (h : StartSound s) (hr : s.rootReads = []) :
    StartSound (queueRootRead s) := by
  rcases queueRootRead_cases s with ⟨hq, hw⟩ | hq <;> rw [hq]
  · have hone : (s.queueTable (rootRead s.rootAddr)).rootReads.length = 1 := by
      unfold State.rootReads at hr ⊢
      rw [List.filter_append] at hr
      obtain ⟨hq, hf⟩ := List.append_eq_nil_iff.mp hr
      show (List.filter _ (s.tfu.queue ++ [_] ++ (s.tfu.inFlight.map (·.operation)).toList)).length = 1
      rw [List.filter_append, List.filter_append, hq, hf]
      rfl
    exact ⟨h.direct, hone.le, fun _ => hw, h.timer⟩
  · exact h

/-- Where a root record read settles, it was the only one, and no timer runs. -/
theorem readSettles {u : State} (h : StartSound s) (hr : u.rootReads.length < s.rootReads.length) :
    u.rootReads = [] ∧ (s.device = .starting ∧ s.root = none ∧ s.tracker = []) ∧
      ¬ s.timer.running = true := by
  have hone := h.oneRead
  have hwait := h.readWaits (List.ne_nil_of_length_pos (Nat.zero_lt_of_lt hr))
  refine ⟨List.eq_nil_of_length_eq_zero (by omega), hwait, fun ht => ?_⟩
  have := (h.timer ht).1
  simp [Guarding, hwait.1] at this

theorem move (h : Move s t) (hs : StartSound s) : StartSound t := by
  cases h with
  | shrinks h => exact hs.of_shrinks h
  | slot i h => exact hs.of_slot h.frame
  | joins h => exact hs.of_le rfl rfl rfl le_rfl le_rfl
  | @places i r js w hc hd hf =>
    have hr : s.rootReads = [] := hs.noRead fun hw => by
      rcases ((decodable_iff s i).mp hd).1 with hx | hx <;> simp [hw.1] at hx
    rcases placeDecode_cases (s.setQueues i ((s.queues i).pop r.lane)) i r w js with
      ⟨c, hp⟩ | ⟨hp, _⟩ <;> rw [hp] <;> exact of_noRead hr hs.direct hs.timer
  | @settles u v i he hu hv =>
    have hr : s.rootReads = [] := hs.noRead fun hw => he hw.2.2
    refine ((hs.of_shrinks hu).of_slot hv.frame).queueRootRead ?_
    rw [rootReads_of_frame hv.frame]
    have := hu.rootReads
    rw [hr] at this
    exact List.eq_nil_of_length_eq_zero (Nat.le_zero.mp this)
  | starts hd =>
    have hr : s.rootReads = [] := hs.noRead fun hw => by simp [hd] at hw
    have hstop : ¬ s.timer.running = true := fun h => by
      have := (hs.timer h).1
      simp [Guarding, hd] at this
    have hbegun : StartSound { s with device := .starting, startResult := .none } :=
      of_noRead hr (fun h => absurd h (by simp)) fun h => absurd h hstop
    exact hbegun.queueRootRead hr
  | startFails c hu hr =>
    obtain ⟨hnone, hwait, hstop⟩ := hs.readSettles hr
    exact of_noRead hnone (fun _ => hu.root.trans hwait.2.1) fun h =>
      absurd (hu.timer ▸ h) hstop
  | rootCopied c hu hr =>
    obtain ⟨hnone, hwait, hstop⟩ := hs.readSettles hr
    refine of_noRead hnone (fun h => ?_) fun h => absurd (hu.timer ▸ h) hstop
    exact absurd ((hu.device.trans hwait.1).symm.trans h) (by simp)
  | startEnds hd hr =>
    refine of_noRead (hs.noRead fun hw => by simp [hw.2.1] at hr) (fun h => absurd h (by simp)) fun h => ?_
    exact ⟨Or.inl rfl, Nat.pos_of_ne_zero (of_decide_eq_true h)⟩
  | guards d hg hd =>
    rw [guards_iff] at hg
    have hnd : d ≠ .direct := by rintro rfl; simp [DeviceState.guards] at hd
    refine of_noRead (hs.noRead fun hw => by simp [Guarding, hw.1] at hg)
      (fun h => absurd h hnd) fun h => ⟨?_, (hs.timer h).2⟩
    exact (guards_iff { s with device := d }).mp hd
  | time tm hr hc =>
    exact ⟨hs.direct, hs.oneRead, hs.readWaits, fun h =>
      have hrun := hr ▸ h
      ⟨(hs.timer hrun).1, hc hrun (hs.timer hrun).2⟩⟩
  | expires =>
    exact ⟨hs.direct, hs.oneRead, hs.readWaits, fun h =>
      ⟨(hs.timer h).1, Nat.zero_lt_of_lt (hs.timer h).2⟩⟩
  | resets h hl =>
    refine of_noRead ?_ (fun _ => h.root) fun hr => absurd (h.timer.symm.trans hr) (by simp)
    exact List.eq_nil_of_length_eq_zero (by rw [h.rootReads]; rfl)

end StartSound

/-- Settles O59: the root record read is queued only where the start waits for it, and the timer starts with
the entry to RUNNING, which needs the root copy (R95, R163, R169). -/
theorem startAndTimerStaySound : Obligations.StartAndTimerStaySound :=
  fun _ _ hs h => (step_moves h).keeps StartSound.move hs

/-! ### Tags (R28) -/

/-- A slot's queue holds requests of its own slot and lane (R24, R30). -/
def Intake.Own (q : Intake) (i : Slot) : Prop :=
  (∀ r ∈ q.regular, r.initiator = i ∧ r.lane = .regular) ∧
    ∀ r ∈ q.priority, r.initiator = i ∧ r.lane = .priority

/-- The tags of a slot's outstanding entries, by the keys of the entries. -/
theorem outstandingTags_eq (l : List Outstanding) (i : Slot) :
    (l.filter fun o => decide (o.slot = i)).map (·.tag) =
      ((l.map Outstanding.key).filter fun k => decide (k.1 = i)).map (·.2) := by
  rw [List.filter_map, List.map_map]
  rfl

theorem tagsInUse_sublist {s t : State} (h : Drops s t) (i : Slot) :
    (t.tagsInUse i).Sublist (s.tagsInUse i) := by
  unfold State.tagsInUse
  rw [outstandingTags_eq, outstandingTags_eq]
  refine List.Sublist.append ?_ ((h.keys.filter _).map _)
  unfold State.queued
  rcases h.queues i with hq | hq <;> rw [hq]
  exact List.nil_sublist _

theorem TagsSound.of_drops {s t : State} (h : Drops s t) (hs : TagsSound s) : TagsSound t := by
  intro i
  obtain ⟨hnd, hown⟩ := hs i
  refine ⟨hnd.sublist (tagsInUse_sublist h i), ?_⟩
  rcases h.queues i with hq | hq <;> rw [hq]
  · exact hown
  · exact ⟨by simp [Intake.empty], by simp [Intake.empty]⟩

/-- The requests of a slot after one joins the queue of its lane. -/
theorem push_all_perm (q : Intake) (r : Request) :
    ((q.push r).priority ++ (q.push r).regular).Perm (r :: (q.priority ++ q.regular)) := by
  unfold Intake.push
  split
  · rw [← List.append_assoc]
    exact List.perm_append_singleton r _
  · show (q.priority ++ [r] ++ q.regular).Perm _
    rw [List.append_assoc]
    exact List.perm_middle

theorem Intake.Own.push {q : Intake} {r : Request} (h : q.Own r.initiator) :
    (q.push r).Own r.initiator := by
  unfold Intake.push
  split
  next hl =>
    refine ⟨fun x hx => ?_, h.2⟩
    rcases List.mem_append.mp hx with hx | hx
    · exact h.1 x hx
    · rw [List.mem_singleton.mp hx]; exact ⟨rfl, hl⟩
  next hl =>
    refine ⟨h.1, fun x hx => ?_⟩
    rcases List.mem_append.mp hx with hx | hx
    · exact h.2 x hx
    · rw [List.mem_singleton.mp hx]; exact ⟨rfl, hl⟩

/-- A candidate stands at the head of the queue of its lane, and the pop takes it from there. -/
theorem candidate_pop {s : State} {i : Slot} {r : Request} (h : (s.queues i).Own i)
    (hc : IsCandidate s i r) :
    r.initiator = i ∧ ((s.queues i).pop r.lane).Own i ∧
      (r :: (((s.queues i).pop r.lane).priority ++ ((s.queues i).pop r.lane).regular)) =
        s.queued i := by
  unfold State.queued
  rcases hc with hp | ⟨hp, _, hr⟩
  · obtain ⟨rest, hq⟩ := List.head?_eq_some_iff.mp hp
    obtain ⟨hi, hl⟩ := h.2 r (by simp [hq])
    refine ⟨hi, ?_, ?_⟩ <;> simp only [Intake.pop, hl, hq, List.tail_cons]
    · exact ⟨h.1, fun x hx => h.2 x (by rw [hq]; exact List.mem_cons_of_mem _ hx)⟩
    · rfl
  · obtain ⟨rest, hq⟩ := List.head?_eq_some_iff.mp hr
    obtain ⟨hi, hl⟩ := h.1 r (by simp [hq])
    refine ⟨hi, ?_, ?_⟩ <;> simp only [Intake.pop, hl, hq, hp, List.tail_cons]
    · exact ⟨fun x hx => h.1 x (by rw [hq]; exact List.mem_cons_of_mem _ hx), by simp⟩
    · rfl

/-- An admitted request's tag is not in use (R28). -/
theorem TagsSound.joins {s : State} {r : Request} (hs : TagsSound s) (hr : s.refusal r = none) :
    TagsSound (s.setQueues r.initiator ((s.queues r.initiator).push r)) := by
  have hfresh := ((admitted_iff s r).mp hr).2.1
  intro i
  obtain ⟨hnd, hown⟩ := hs i
  by_cases hi : i = r.initiator
  · subst hi
    rw [State.queues_setQueues]
    refine ⟨?_, Intake.Own.push hown⟩
    unfold State.tagsInUse State.queued
    rw [State.queues_setQueues]
    refine List.Nodup.perm ?_ (((push_all_perm _ r).map _).append_right _).symm
    refine List.nodup_cons.mpr ⟨fun hm => hfresh ?_, hnd⟩
    rcases List.mem_append.mp hm with hm | hm
    · obtain ⟨q, hq, ht⟩ := List.mem_map.mp hm
      exact Or.inl ⟨q, hq, ht⟩
    · obtain ⟨o, ho, ht⟩ := List.mem_map.mp hm
      obtain ⟨ho, hs⟩ := List.mem_filter.mp ho
      exact Or.inr ⟨o, ho, of_decide_eq_true hs, ht⟩
  · unfold State.tagsInUse State.queued
    rw [State.queues_setQueues_ne _ _ hi]
    exact ⟨hnd, hown⟩

/-- A request that leaves its queue takes its tag along to its outstanding entry, if it gets one. -/
theorem TagsSound.leaves {s t : State} {i : Slot} {r : Request} (hs : TagsSound s)
    (hc : IsCandidate s i r) (hq : t.queues = (s.setQueues i ((s.queues i).pop r.lane)).queues)
    (ho : (t.outstanding.map Outstanding.key).Sublist
      (s.outstanding.map Outstanding.key ++ [(i, r.tag)])) : TagsSound t := by
  obtain ⟨hi, hown, hall⟩ := candidate_pop (hs i).2 hc
  intro j
  have htags : (t.tagsInUse j).Sublist ((t.queued j).map (·.tag) ++
      (((s.outstanding.map Outstanding.key).filter fun k => decide (k.1 = j)).map (·.2) ++
        (([(i, r.tag)].filter fun k => decide (k.1 = j)).map (·.2)))) := by
    unfold State.tagsInUse
    rw [outstandingTags_eq, ← List.map_append, ← List.filter_append]
    exact (List.Sublist.refl _).append ((ho.filter _).map _)
  by_cases hj : j = i
  · subst hj
    have hown' : (t.queues j).Own j := by rw [hq, State.queues_setQueues]; exact hown
    have hone : ([(j, r.tag)].filter fun k => decide (k.1 = j)).map (·.2) = [r.tag] := by simp
    refine ⟨List.Nodup.sublist htags (List.Nodup.perm (hs j).1 ?_), hown'⟩
    unfold State.tagsInUse
    rw [outstandingTags_eq, ← hall, ← List.append_assoc]
    unfold State.queued
    rw [hq, State.queues_setQueues, hone]
    exact (List.perm_append_singleton r.tag _).symm
  · have hsame : t.queues j = s.queues j := by rw [hq, State.queues_setQueues_ne _ _ hj]
    refine ⟨List.Nodup.sublist (htags.trans ?_) (hs j).1, by rw [hsame]; exact (hs j).2⟩
    unfold State.tagsInUse State.queued
    rw [outstandingTags_eq, hsame]
    simp [Ne.symm hj]

theorem TagsSound.move {s t : State} (h : Move s t) (hs : TagsSound s) : TagsSound t := by
  rcases h.drops with hd | ⟨r, hr, rfl⟩ | ⟨i, r, js, w, hc, _, _, rfl⟩
  · exact hs.of_drops hd
  · exact hs.joins hr
  · rcases placeDecode_cases (s.setQueues i ((s.queues i).pop r.lane)) i r w js with
      ⟨c, hp⟩ | ⟨hp, _⟩ <;> rw [hp]
    · exact hs.leaves ((candidate_iff s i r).mp hc) rfl (List.sublist_append_left _ _)
    · refine hs.leaves ((candidate_iff s i r).mp hc) rfl ?_
      show (List.map _ (s.outstanding ++ [_])).Sublist _
      rw [List.map_append]
      exact List.Sublist.refl _

/-- Settles O60: a tag enters a slot by an arrival that finds it free (R28), and leaves its queue for the one
outstanding entry of its request. -/
theorem tagsStayUniqueWithinASlot : Obligations.TagsStayUniqueWithinASlot :=
  fun _ _ hs h => (step_moves h).keeps TagsSound.move hs

/-! ### The table fetch unit and the window cache -/

theorem fetchSound_epochExpiry {s : State} (h : FetchSound s) : FetchSound (takeEpochExpiry s) := by
  unfold takeEpochExpiry
  split
  · exact fetchSound_epochExpires (h.of_slots rfl rfl rfl rfl rfl id)
  · exact h

theorem fetchSound_releaseReset {s : State} (h : FetchSound s) : FetchSound (releaseReset s) := by
  unfold releaseReset
  exact fetchSound_foldl (fun _ r ht => fetchSound_arrive ht r) _ _
    (h.of_slots rfl rfl rfl rfl rfl id)

theorem fetchSound_sendCompletion {s : State} (h : FetchSound s) : FetchSound (sendCompletion s) := by
  unfold sendCompletion
  split
  · exact h
  · exact h.of_slots rfl rfl rfl rfl rfl id

theorem fetchSound_exec {c : Instr} {s t : State} (hs : FetchSound s) (h : exec c s = .next t) :
    FetchSound t := by
  cases c with
  | requestArrival r =>
    refine fetchSound_finish ?_ h
    split
    · exact hs.of_slots rfl rfl rfl rfl rfl id
    · exact fetchSound_arrive hs r
  | decodeAttempt => exact fetchSound_finish (fetchSound_decodeStep hs) h
  | completionSend => exact fetchSound_finish (fetchSound_sendCompletion hs) h
  | auxPortIssue => exact fetchSound_finish (fetchSound_auxIssue hs) h
  | primaryPortIssue => exact fetchSound_finish (fetchSound_primaryIssue hs) h
  | responseArrival p id st data => exact fetchSound_finish (fetchSound_respond hs p id st data) h
  | responseLimitExpiry p id => exact fetchSound_finish (fetchSound_expire hs p id) h
  | epochExpiry => exact fetchSound_finish (fetchSound_epochExpiry hs) h
  | logDataRead x => exact fetchSound_finish (fetchSound_readLog hs x) h
  | resetInput => exact fetchSound_finish (fetchSound_deviceReset _) h
  | resetInputRelease => exact fetchSound_finish (fetchSound_releaseReset hs) h
  | powerOnReset frame => exact fetchSound_finish (fetchSound_powerOnReset _) h
  | chipSelectHigh bytes =>
    refine fetchSound_finish ?_ h
    exact (fetchSound_clockBytes hs bytes).of_slots rfl rfl rfl rfl rfl id
  | _ => exact fetchSound_finish (fetchSound_wholeFrame hs _) h

theorem fetchSound_step {s t : State} (hs : FetchSound s) (h : step s = .next t) : FetchSound t := by
  unfold step at h
  split at h
  · exact fetchSound_finish (fetchSound_idle hs) h
  next cs _ =>
    have hrest : FetchSound { s with pending := cs } := hs.of_slots rfl rfl rfl rfl rfl id
    exact fetchSound_exec hrest h

/-- Settles O56: an arrival and a decode add to a store only what it has room for, and the TFU holds at most
one operation of each of the 16 slots (R131). -/
theorem storesStayWithinTheirPlaces : Obligations.StoresStayWithinTheirPlaces := by
  refine ⟨fun s t hl hs h => ?_, fun s t hs h => ?_⟩
  · exact ⟨(step_moves h).keeps LogBounded.move hl, (step_moves h).keeps StoresBounded.move hs⟩
  · have ht := fetchSound_step hs h
    exact ⟨ht, queue_length_of_fetchSound ht⟩

end Sys2Proof.Machine
end

section
/-! PROOFS. Steps, arrivals at the release of the reset input, completions and discarded responses. -/

namespace Sys2Proof.Machine

/-! ### Steps -/

theorem step_of_empty {s : State} (h : s.pending = []) : step s = .next (idle s).latchNotice := by
  unfold step
  rw [h]
  rfl

/-- Settles O1: it is the definition of a step. -/
theorem stepRunsTheFrontCommand : Obligations.StepRunsTheFrontCommand := by
  intro c cs s h
  unfold step
  rw [h]

theorem idle_of_noneDue {s : State} (h : s.dueOps = []) : idle s = tick s := by
  unfold idle
  rw [h]
  rfl

/-- With operations at their limit, one of them is settled (R82; log entry 4). -/
theorem idle_of_due {s : State} (h : s.dueOps ≠ []) :
    ∃ x ∈ s.dueOps, idle s = timeOut (s.spendFree 1) x := by
  unfold idle
  split
  next hn => exact absurd (freeOrder_eq_nil.mp hn) h
  next x l hl =>
    exact ⟨x, mem_freeOrder.mp (by rw [hl]; exact List.mem_cons_self ..), rfl⟩

theorem tick_of_inEpoch {s : State} (h : s.timer.running = true → s.timer.count + 1 < s.epochLength) :
    tick s = passTime s 1 := by
  unfold tick
  rw [if_neg]
  rintro ⟨hr, hc⟩
  exact absurd (h hr) (Nat.not_lt.mpr hc)

theorem tick_of_expiry {s : State} (hr : s.timer.running = true)
    (hc : s.epochLength ≤ s.timer.count + 1) : tick s = epochExpires (s.later 1) := by
  unfold tick
  rw [if_pos ⟨hr, hc⟩]

/-- Settles O2: an idle step ticks, by the running state of the timer and its count, or settles one operation
that is due. -/
theorem emptyQueueLetsTimePass : Obligations.EmptyQueueLetsTimePass := by
  refine ⟨fun s hp hd hr => ?_, fun s hp hd hr hc => ?_, fun s hp hd hr hc => ?_,
    fun s hp hd => ?_⟩
  · rw [step_of_empty hp, idle_of_noneDue hd, tick_of_inEpoch (by simp [hr]),
      passTime_of_stopped 1 hr]
    rfl
  · rw [step_of_empty hp, idle_of_noneDue hd, tick_of_inEpoch fun _ => hc, passTime_short hr hc]
    rfl
  · rw [step_of_empty hp, idle_of_noneDue hd, tick_of_expiry hr hc]
    rfl
  · obtain ⟨x, hx, hi⟩ := idle_of_due hd
    refine ⟨x, hx, ?_⟩
    rw [step_of_empty hp, hi]
    rfl

/-! ### The reset input (R45) -/

/-- The state at the release, with requests that still wait. -/
def State.released (s : State) (waiting : List Request) : State :=
  { s with resetHeld := false, presented := waiting }

/-- An arrival neither reads nor changes the requests that wait. -/
theorem arrive_of_waiting (s : State) (r : Request) (p : List Request) :
    arrive { s with presented := p } r = { arrive s r with presented := p } := by
  have hr : State.refusal { s with presented := p } r = s.refusal r := rfl
  rw [arrive_eq, arrive_eq, hr]
  cases s.refusal r <;> rfl

/-- Nor does it read or change the notice line. -/
theorem arrive_of_ntc (s : State) (r : Request) (b : Bool) :
    arrive { s with ntc := b } r = { arrive s r with ntc := b } := by
  have hr : State.refusal { s with ntc := b } r = s.refusal r := rfl
  rw [arrive_eq, arrive_eq, hr]
  cases s.refusal r <;> rfl

theorem foldl_arrive_of_ntc (l : List Request) (s : State) (b : Bool) :
    l.foldl arrive { s with ntc := b } = { l.foldl arrive s with ntc := b } := by
  induction l generalizing s with
  | nil => rfl
  | cons r l ih => rw [List.foldl_cons, List.foldl_cons, arrive_of_ntc, ih]

/-- An arrival keeps the reset input released, and no request waits that did not. -/
theorem released_arrive (s : State) (r : Request) :
    (arrive (s.released []) r).released [] = arrive (s.released []) r := by
  rw [arrive_eq]
  split <;> rfl

theorem exec_resetInputRelease (s : State) :
    exec .resetInputRelease s = finish (s.presented.foldl arrive (s.released [])) := rfl

/-- Settles O5: the release takes the requests that wait one by one, each as an arrival of its own; that the
notice line is latched between them is lost in the next latch. -/
theorem presentedRequestsArriveAtTheRelease : Obligations.PresentedRequestsArriveAtTheRelease := by
  refine ⟨fun r s hr => ?_, fun s hp => ?_, fun r rs s u hp hu => ?_⟩
  · show execRequestArrival r s = _
    simp [execRequestArrival, finish, hr]
  · rw [exec_resetInputRelease, hp]
    rfl
  · have harrive : arrive (s.released rs) r = { arrive (s.released []) r with presented := rs } :=
      arrive_of_waiting (s.released []) r rs
    have hlatch : u = { arrive (s.released []) r with presented := rs, ntc := u.ntc } := by
      obtain rfl : (arrive (s.released rs) r).latchNotice = u :=
        Host.Outcome.next.inj ((exec_requestArrival r rfl).symm.trans hu)
      rw [harrive]
      rfl
    have hu' : u.presented = rs ∧
        u.released [] = { arrive (s.released []) r with ntc := u.ntc } := by
      rw [hlatch]
      exact ⟨rfl, congrArg (fun v : State => { v with ntc := u.ntc }) (released_arrive s r)⟩
    rw [exec_resetInputRelease, exec_resetInputRelease, hp, hu'.1, hu'.2,
      foldl_arrive_of_ntc rs (arrive (s.released []) r) u.ntc]
    rfl

/-! ### Completions and responses (R35, R78) -/

/-- Settles O6, by the two cases of the completions that wait. -/
theorem completionsLeaveInTheOrderFormed : Obligations.CompletionsLeaveInTheOrderFormed := by
  refine ⟨fun c cs s h => ?_, fun s h => ?_⟩ <;>
    (show finish (sendCompletion s) = _; unfold sendCompletion; rw [h]; rfl)

/-- Settles O23: the state of the identifier decides. -/
theorem responseWithoutItsOperationIsDiscarded :
    Obligations.ResponseWithoutItsOperationIsDiscarded := by
  intro s p id st data
  refine ⟨fun h => ?_, fun h => ?_⟩ <;>
    (show finish (respond s p id st data) = _; unfold respond; rw [h]; rfl)

end Sys2Proof.Machine
end

section
/-! PROOFS. The decode engine: the choice of a slot, a decode passed through in DIRECT, passed by its
window, held back, denied or captured, and the guard of the protected table region. -/

namespace Sys2Proof.Machine

/-! ### The choice of a slot (R36) -/

theorem exec_decodeAttempt_of_none {s : State} (h : ∀ i, ¬IsDecodable s i) :
    exec .decodeAttempt s = .next s.latchNotice := by
  show finish (decodeStep s) = _
  rw [decodeStep_of_none h]
  rfl

theorem attempt_otherSlots (s : State) (i : Slot) (r : Request) {j : Slot} (h : j ≠ i) :
    (attempt s i r).queues j = s.queues j ∧ (attempt s i r).slot j = s.slot j := by
  have key : ∀ t : State, t.queues j = s.queues j ∧ t.slot j = s.slot j →
      State.queues { t with pointer := i + 1 } j = s.queues j ∧
        State.slot { t with pointer := i + 1 } j = s.slot j := fun _ ht => ht
  refine key _ ?_
  split
  · exact takeDecode_otherSlots s i r _ h
  · exact ⟨rfl, State.slot_setSlot_ne s _ h⟩
  · exact ⟨rfl, rfl⟩

/-- Settles O7: the search from the pointer finds the chosen slot, and an attempt is one slot's. -/
theorem roundRobinServesTheFirstDecodableSlot :
    Obligations.RoundRobinServesTheFirstDecodableSlot := by
  refine ⟨fun s i r h => ?_, fun s h => exec_decodeAttempt_of_none h⟩
  exact ⟨_, exec_decodeAttempt_of_chosen h, rfl, fun j hj => attempt_otherSlots s i r hj⟩

/-! ### Every granule issuable (R41, R68) -/

theorem watchWindow_of_not_running {s : State} (h : s.device ≠ .running) (i : Slot) (r : Request)
    (js : List Judged) : s.watchWindow i r js = none := by
  unfold State.watchWindow
  rw [if_neg fun hc => h hc.1]

/-- A decode that finds every granule issuable on one port, and captures nothing (R41, R56). -/
theorem exec_decodeAttempt_of_allIssuable {s : State} {i : Slot} {r : Request} {p : MemPort}
    {target : Nat → Addr} {x : Bool} (h : Chosen s i r)
    (hj : decodeRequest s i r = allIssuable (granuleCount r.addr r.length) p target x)
    (hh : s.holds i r (decodeRequest s i r) = false)
    (ht : s.tracker.length + granuleCount r.addr r.length ≤ 128)
    (hw : s.watchWindow i r (decodeRequest s i r) = none) :
    exec .decodeAttempt s = .next
      (chargeBinding (s.decoded i r p target false (s.presetData i r)) i r
        (allIssuable (granuleCount r.addr r.length) p target x)).latchNotice := by
  rw [hj] at hh hw
  rw [exec_decodeAttempt_of_chosen h, attempt_of_taken hj hh
    (by rw [issuableCount_allIssuable]; omega), takeDecode_allIssuable hw]

theorem decodeRequest_of_direct {s : State} (hd : s.device = .direct) (i : Slot) (r : Request) :
    decodeRequest s i r = allIssuable (granuleCount r.addr r.length) .primary
      (fun j => BitVec.ofNat 40 (firstByte r.addr j)) false := by
  unfold decodeRequest allIssuable
  refine List.map_congr_left fun j _ => ?_
  unfold judgeGranule
  rw [if_pos hd]

theorem decodeBinding_of_direct {s : State} (hd : s.device = .direct) (i : Slot) :
    s.decodeBinding i = none := by
  unfold State.decodeBinding
  rw [if_pos hd]

/-- Settles O8: in DIRECT no binding is read, so that nothing is judged, held, captured or charged. -/
theorem directDecodePassesThrough : Obligations.DirectDecodePassesThrough := by
  intro s i r h hd ht
  have hh : s.holds i r (decodeRequest s i r) = false := by
    unfold State.holds
    rw [decodeBinding_of_direct hd]
  have hw := watchWindow_of_not_running (by rw [hd]; simp) i r (decodeRequest s i r)
  refine ⟨s.presetData i r, ?_, ?_⟩
  · unfold State.presetData
    rw [decodeBinding_of_direct hd]
    cases r.op <;> simp [freeBytes]
  · rw [exec_decodeAttempt_of_allIssuable h (decodeRequest_of_direct hd i r) hh ht hw,
      chargeBinding_of_none]
    exact decodeBinding_of_direct (s := s.decoded i r _ _ _ _) hd i

/-! ### A decode that its window passes (R49 to R57) -/

theorem decodeRequest_of_window {s : State} {i : Slot} {r : Request} {b : Binding} {w : Window}
    {p : MemPort} (hd : s.device ≠ .direct) (hb : (s.slot i).binding = some b)
    (hdec : ∀ j < granuleCount r.addr r.length, DecidedBy s i r j w)
    (hp : w.port.memory = some p) (hl : LaneOk w r) (ht : LevelOk w r b.level)
    (hg : ∀ j < granuleCount r.addr r.length,
      ¬GuardStops s.root b r (w.translate (firstByte r.addr j))) :
    decodeRequest s i r = allIssuable (granuleCount r.addr r.length) p
      (fun j => w.translate (firstByte r.addr j)) w.exempt := by
  unfold decodeRequest allIssuable
  refine List.map_congr_left fun j hj => ?_
  have hlt := List.mem_range.mp hj
  rw [judgeGranule_of_binding hd hb, judgeBound_of_windowOf (windowOf_of_decidedBy (hdec j hlt)),
    judgeWindow_of_passes hp hl ht (hg j hlt)]

/-- The budget count of a request whose one window decides (R57). -/
theorem budgetCount_of_regular {r : Request} (hl : r.lane = .regular) (n : Nat) (p : MemPort)
    (target : Nat → Addr) (x : Bool) :
    budgetCount r (allIssuable n p target x) = if x then 0 else n := by
  rw [budgetCount_allIssuable]
  simp [hl]

/-- The budget check admits a request whose one window decides. -/
theorem not_holds_of_allIssuable {s : State} {i : Slot} {r : Request} {b : Binding} {n : Nat}
    {p : MemPort} {target : Nat → Addr} {x : Bool} (hb : (s.slot i).binding = some b)
    (ha : BudgetAdmits s r b (if x then 0 else n)) :
    s.holds i r (allIssuable n p target x) = false := by
  refine not_holds_of_admits fun b' hb' _ hc => ?_
  obtain rfl := Option.some.inj (hb.symm.trans hb')
  rw [budgetCount_of_regular hc.2.1]
  exact ha hc

/-- The charge of a binding for a decode that finds every granule issuable (R91). -/
theorem chargeBinding_allIssuable {s t : State} {i : Slot} {r : Request} {b : Binding} {n : Nat}
    {p : MemPort} {target : Nat → Addr} {x : Bool} (hd : t.device = s.device)
    (hnd : s.device ≠ .direct) (hr : t.root = s.root) (hs : t.slot i = s.slot i)
    (hb : (s.slot i).binding = some b) :
    chargeBinding t i r (allIssuable n p target x) =
      t.setSlot i
        { s.slot i with binding := some (b.afterTaken s r (if x then 0 else n)) } := by
  have hbind : t.decodeBinding i = some b :=
    decodeBinding_of_bound (by rw [hd]; exact hnd) (by rw [hs]; exact hb)
  rw [chargeBinding_of_some hbind, hs,
    spentBinding_of_noDenial hd hr (denies_allIssuable n p target x)
      fun hc => budgetCount_of_regular hc.2.1 n p target x]

theorem presetData_of_binding {s : State} {i : Slot} {b : Binding} (hd : s.device ≠ .direct)
    (hb : (s.slot i).binding = some b) (r : Request) :
    s.presetData i r = if r.op = .read then fillData b.fill r.addr r.length else [] := by
  unfold State.presetData
  rw [decodeBinding_of_bound hd hb]
  cases r.op <;> rfl

/-- A write through a window that is not watched, or not at its base, is captured by none (R66). -/
theorem watchWindow_of_plain {s : State} {i : Slot} {r : Request} {w : Window} (js : List Judged)
    (hw : s.windowOf i r 0 = some w)
    (hn : ¬(r.op = .write ∧ r.lane = .regular ∧ r.length = 8 ∧ r.mask = List.replicate 8 true ∧
      w.reqBase = r.addr ∧ w.watch = true)) : s.watchWindow i r js = none := by
  unfold State.watchWindow
  split
  next hc =>
    obtain ⟨_, hop, hlane, hlen, hmask, _⟩ := hc
    rw [hw, Option.filter_some, if_neg]
    rw [Bool.and_eq_true, decide_eq_true_iff]
    exact fun hx => hn ⟨hop, hlane, hlen, hmask, hx.2, hx.1⟩
  · rfl

/-- Settles O9: every granule is judged issuable through the one window, and the charge is that of its budget
count. -/
theorem permittedDecodeIssuesItsGranules : Obligations.PermittedDecodeIssuesItsGranules := by
  intro s i r b w p h hrun hb hn hdec hp hl ht hg ha hfree hnw
  have hd : s.device ≠ .direct := by rw [hrun]; simp
  have hj := decodeRequest_of_window hd hb hdec hp hl ht hg
  have hh : s.holds i r (decodeRequest s i r) = false := by
    rw [hj]
    exact not_holds_of_allIssuable hb ha
  have hw := watchWindow_of_plain (decodeRequest s i r) (windowOf_of_decidedBy (hdec 0 hn)) hnw
  rw [exec_decodeAttempt_of_allIssuable h hj hh hfree hw,
    chargeBinding_allIssuable (s := s) (t := s.decoded i r p _ false _) rfl hd rfl rfl hb,
    presetData_of_binding hd hb]
  rfl

/-! ### Discarded decodes (R39, R91) -/

/-- Settles O12: the budget check comes before the tracker check, and neither outcome takes the request. -/
theorem discardedDecodeLeavesNoTrace : Obligations.DiscardedDecodeLeavesNoTrace := by
  refine ⟨fun s i r b h hb hc hlt hne => ?_, fun s i r h ha hfull => ?_⟩
  · rw [exec_decodeAttempt_of_chosen h, attempt_of_held (holds_of_checked hb hc hlt hne)]
  · rw [exec_decodeAttempt_of_chosen h, attempt_of_notTaken (not_holds_of_admits ha) hfull]

/-! ### Denied decodes (R58 to R63) -/

/-- A decode whose granule 0 is not issuable has no issuable granule to count (R57). -/
theorem counts_of_failed {js rest : List Judged} {j : Judged} {f : DecodeFail}
    (hj : js = j :: rest) (hf : j.outcome = .failed f) (r : Request) :
    headIssuable js = false ∧ issuableCount js = 0 ∧ budgetCount r js = 0 := by
  have hh : headIssuable js = false := by
    rw [hj]
    show j.outcome.isIssuable = false
    rw [hf]
    rfl
  refine ⟨hh, by simp [issuableCount, hh], ?_⟩
  unfold budgetCount
  cases r.lane <;> simp [hh]

theorem decodeRequest_head {s : State} {i : Slot} {r : Request}
    (hn : 0 < granuleCount r.addr r.length) :
    decodeRequest s i r = judgeGranule s i r 0 ::
      (List.range (granuleCount r.addr r.length - 1)).map (fun j => judgeGranule s i r (j + 1)) := by
  unfold decodeRequest
  obtain ⟨n, hn⟩ := Nat.exists_eq_add_of_lt hn
  rw [Nat.zero_add] at hn
  rw [hn, List.range_succ_eq_map, List.map_cons, List.map_map]
  rfl

/-- The denial count rises for every failing outcome but LANE (R62). -/
theorem denies_of_failed {js : List Judged} {f : DecodeFail}
    (hhead : ∃ j ∈ js, j.outcome = .failed f)
    (hlane : f = .lane → ∀ j ∈ js, j.outcome = .failed .lane) :
    js.any (fun j => j.outcome.denies) = decide (f ≠ .lane) := by
  by_cases hf : f = .lane
  · rw [decide_eq_false (not_not.mpr hf), List.any_eq_false]
    intro j hj
    rw [hlane hf j hj]
    simp [GranuleOutcome.denies]
  · rw [decide_eq_true hf, List.any_eq_true]
    obtain ⟨j, hj, ho⟩ := hhead
    refine ⟨j, hj, ?_⟩
    rw [ho]
    cases f <;> simp_all [GranuleOutcome.denies]

theorem fillByte_eq (fill : Word) (a : Nat) :
    fillByte fill a = BitVec.ofNat 8 (fill.toNat / 256 ^ (a % 4) % 256) := by
  unfold fillByte
  refine BitVec.eq_of_toNat_eq ?_
  rw [BitVec.extractLsb'_toNat, BitVec.toNat_ofNat, Nat.shiftRight_eq_div_pow, pow_mul]
  norm_num

theorem placeDecode_of_failed {js rest : List Judged} {j : Judged} {f : DecodeFail}
    (hj : js = j :: rest) (hf : j.outcome = .failed f) (s : State) (i : Slot) (r : Request)
    (w : Bool) :
    placeDecode s i r w js = (s.form (deniedCompletion s i r f)).spendFree r.length := by
  obtain ⟨o, x⟩ := j
  subst hj
  obtain rfl : o = .failed f := hf
  rfl

theorem logDecode_of_failed {js rest : List Judged} {j : Judged} {f : DecodeFail}
    (hj : js = j :: rest) (hf : j.outcome = .failed f) (s : State) (i : Slot) (r : Request) :
    logDecode s i r js = s.logFault (decodeFault s i r 0 f) := by
  have hl : lowestFailing js 0 = some (0, f) := by
    obtain ⟨o, x⟩ := j
    subst hj
    obtain rfl : o = .failed f := hf
    rfl
  unfold logDecode
  rw [hl]

/-- A decode whose granule 0 is not issuable completes its request, logs its fault and charges the
binding (R58, R62, R63). -/
theorem exec_decodeAttempt_of_failed {s : State} {i : Slot} {r : Request}
    {js rest : List Judged} {j : Judged} {f : DecodeFail} {v : State} (h : Chosen s i r)
    (hjs : decodeRequest s i r = js)
    (hj : js = j :: rest) (hf : j.outcome = .failed f)
    (hv : v = s.setQueues i ((s.queues i).pop r.lane)) :
    exec .decodeAttempt s = .next
      (chargeBinding
        { ((v.form (deniedCompletion v i r f)).spendFree r.length).logFault
            (decodeFault v i r 0 f) with pointer := i + 1 } i r js).latchNotice := by
  obtain ⟨hhead, hissue, hbudget⟩ := counts_of_failed hj hf r
  have hh : s.holds i r js = false := by
    refine not_holds_of_admits fun b' _ _ _ => Or.inl ?_
    rw [hbudget]
    exact Nat.zero_le _
  have hw : s.watchWindow i r js = none := by
    unfold State.watchWindow
    rw [if_neg]
    rintro ⟨_, _, _, _, _, hx⟩
    exact absurd (hhead.symm.trans hx) (by simp)
  rw [exec_decodeAttempt_of_chosen h, attempt_of_taken hjs hh (by rw [hissue]; exact Nat.zero_le _),
    takeDecode_of_noWatch hw, placeDecode_of_failed hj hf, logDecode_of_failed hj hf,
    chargeBinding_pointer, hv]
  rfl

/-- The binding after a decode whose granule 0 is not issuable (R62): no budget is spent. -/
theorem spentBinding_of_failed {js rest : List Judged} {j : Judged} {f : DecodeFail} {r : Request}
    (hj : js = j :: rest) (hf : j.outcome = .failed f)
    (hlane : f = .lane → ∀ j ∈ js, j.outcome = .failed .lane) (s : State) (b : Binding) :
    s.spentBinding r js b =
      { b with denials := if f = .lane then b.denials else min (b.denials + 1) 4294967295 } := by
  have hden := denies_of_failed (js := js) ⟨j, by rw [hj]; exact List.mem_cons_self .., hf⟩ hlane
  have hb := (counts_of_failed hj hf r).2.2
  unfold State.spentBinding
  rw [hden, hb]
  by_cases hl : f = .lane <;> simp [hl, Config.counterMax]

theorem contextOf_of_binding {s : State} {i : Slot} {b : Binding} (hd : s.device ≠ .direct)
    (hb : (s.slot i).binding = some b) : s.contextOf i = some b.record := by
  unfold State.contextOf
  rw [if_neg hd, hb]
  rfl

/-- The first request byte of granule 0 is the request address. -/
theorem firstByte_zero (a : Addr) : BitVec.ofNat 40 (firstByte a 0) = a := by
  unfold firstByte
  rw [if_pos rfl, BitVec.ofNat_toNat, BitVec.setWidth_eq]

/-- The completion of a denied decode, with the fill data of the binding (R34, R58, R60). -/
theorem deniedCompletion_of_binding {s : State} {i : Slot} {b : Binding} (hd : s.device ≠ .direct)
    (hb : (s.slot i).binding = some b) (r : Request) (f : DecodeFail) :
    deniedCompletion s i r f =
      { initiator := i, tag := r.tag, status := f.status, firstFailing := some 0,
        data := if r.op = .read then some (fillData b.fill r.addr r.length) else none } := by
  unfold deniedCompletion
  rw [presetData_of_binding hd hb]
  split <;> rfl

theorem decodeFault_of_binding {s : State} {i : Slot} {b : Binding} (hd : s.device ≠ .direct)
    (hb : (s.slot i).binding = some b) (r : Request) (f : DecodeFail) :
    decodeFault s i r 0 f =
      { kind := f.kind, slot := i, context := some b.record, request := some r.addr,
        target := f.target, detail := none } := by
  unfold decodeFault
  rw [contextOf_of_binding hd hb, firstByte_zero]

/-- Settles O13: granule 0 stops the request before its budget and its granule work are looked at. -/
theorem deniedDecodeCompletesAtOnce : Obligations.DeniedDecodeCompletesAtOnce := by
  refine ⟨fillByte_eq, fun s i r b f h hrun hb hn hf hlane => ?_⟩
  have hd : s.device ≠ .direct := by rw [hrun]; simp
  have hall : f = .lane → ∀ j ∈ decodeRequest s i r, j.outcome = .failed .lane := by
    intro hl j hj
    obtain ⟨n, hlt, rfl⟩ := List.mem_map.mp hj
    exact hlane hl n (List.mem_range.mp hlt)
  have hden := deniedCompletion_of_binding (s := s.setQueues i ((s.queues i).pop r.lane)) hd hb r f
  have hfault := decodeFault_of_binding (s := s.setQueues i ((s.queues i).pop r.lane)) hd hb r f
  rw [exec_decodeAttempt_of_failed h rfl (decodeRequest_head hn) hf rfl, hden, hfault,
    chargeBinding_of_some (b := b), spentBinding_of_failed (decodeRequest_head hn) hf hall]
  · cases f <;> rfl
  · exact decodeBinding_of_bound hd hb

/-! ### The protected table region (R54) -/

/-- A granule found issuable under a binding is one that the guard lets through. -/
theorem not_guardStops_of_issuable {root : Option RootCopy} {b : Binding} {w : Window} {r : Request}
    {a : Nat} {t : Addr} {p : MemPort} (h : judgeWindow root b w r a = .issuable t p) :
    ¬GuardStops root b r t := by
  have key : ∀ q, judgeOnPort root b w r q (w.translate a) = .issuable t p →
      ¬GuardStops root b r t := by
    intro q hq
    unfold judgeOnPort at hq
    split_ifs at hq with h1 h2 h3
    obtain ⟨rfl, _⟩ := GranuleOutcome.issuable.inj hq
    rw [← guarded_iff]
    exact h3
  unfold judgeWindow at h
  split at h
  · exact absurd h (by simp)
  · exact key _ h
  · exact key _ h

/-- Outside DIRECT a granule is issuable only under a binding, and past the guard. -/
theorem judgeGranule_issuable {s : State} {i : Slot} {r : Request} {j : Nat} {t : Addr} {p : MemPort}
    (hd : s.device ≠ .direct) (h : (judgeGranule s i r j).outcome = .issuable t p) :
    ∃ b, (s.slot i).binding = some b ∧ ¬GuardStops s.root b r t := by
  cases hb : (s.slot i).binding with
  | none =>
    unfold judgeGranule at h
    rw [if_neg hd, hb] at h
    exact absurd h (by simp)
  | some b =>
    refine ⟨b, rfl, ?_⟩
    rw [judgeGranule_of_binding hd hb] at h
    cases hw : s.windowOf i r j with
    | none => rw [judgeBound_of_no_window hw] at h; exact absurd h (by simp)
    | some w => rw [judgeBound_of_windowOf hw] at h; exact not_guardStops_of_issuable h

/-- An attempt adds nothing to the tracker but granule work of its slot. -/
theorem mem_attempt_tracker {s : State} {i : Slot} {r : Request} {e : TrackerEntry}
    (h : e ∈ (attempt s i r).tracker) :
    e ∈ s.tracker ∨ ∃ w, e ∈ allWork i r w (decodeRequest s i r) := by
  have key : ∀ t : State, e ∈ State.tracker { t with pointer := i + 1 } → e ∈ t.tracker :=
    fun _ ht => ht
  unfold attempt at h
  dsimp only at h
  replace h := key _ h
  split at h
  · exact mem_takeDecode_tracker h
  · exact Or.inl h
  · exact Or.inl h

/-- Settles O14: what an attempt adds to the tracker was judged issuable, past the guard. -/
theorem guardedWriteIsNeverIssued : Obligations.GuardedWriteIsNeverIssued := by
  intro s hd
  refine ⟨_, rfl, fun e he => ?_⟩
  have he : e ∈ (decodeStep s).tracker := he
  unfold decodeStep at he
  split at he
  · exact Or.inl he
  next i _ =>
    split at he
    · next r _ =>
      rcases mem_attempt_tracker he with he | ⟨w, he⟩
      · exact Or.inl he
      · obtain ⟨hslot, hop, j, hj, p, ho⟩ := mem_allWork he
        obtain ⟨n, _, rfl⟩ := List.mem_map.mp hj
        obtain ⟨b, hb, hg⟩ := judgeGranule_issuable hd ho
        refine Or.inr ⟨b, hslot ▸ hb, ?_⟩
        rw [hop]
        exact hg
    · exact Or.inl he

/-! ### Captured writes (R66, R117, R119) -/

/-- A kind code that names no kind is kept (R117, R184). -/
theorem mailboxKind_undefined {code : Byte} (h1 : code ≠ 1) (h2 : code ≠ 2) (h3 : code ≠ 3) :
    mailboxKind code = .undefined code := by
  unfold mailboxKind
  split
  next h => exact absurd (BitVec.eq_of_toNat_eq h) h1
  next h => exact absurd (BitVec.eq_of_toNat_eq h) h2
  next h => exact absurd (BitVec.eq_of_toNat_eq h) h3
  next => rfl

/-- A request of 8 bytes at a page boundary touches one granule. -/
theorem granuleCount_of_aligned {a : Addr} (h : a.toNat % 4096 = 0) : granuleCount a 8 = 1 := by
  unfold granuleCount
  omega

theorem translate_base (w : Window) : w.translate w.reqBase.toNat = w.tgtBase := by
  unfold Window.translate
  rw [Nat.sub_self, Nat.add_zero, BitVec.ofNat_toNat, BitVec.setWidth_eq]

theorem watchWindow_of_watched {s : State} {i : Slot} {r : Request} {js : List Judged} {w : Window}
    (hrun : s.device = .running) (hop : r.op = .write) (hlane : r.lane = .regular)
    (hlen : r.length = 8) (hmask : r.mask = List.replicate 8 true) (hhead : headIssuable js = true)
    (hwin : s.windowOf i r 0 = some w) (hbase : w.reqBase = r.addr) (hwatch : w.watch = true) :
    s.watchWindow i r js = some w := by
  unfold State.watchWindow
  rw [if_pos ⟨hrun, hop, hlane, hlen, hmask, hhead⟩, hwin, Option.filter_some, if_pos]
  rw [hwatch, decide_eq_true hbase]
  rfl

/-- A capture in a slot with no pending force (R119). -/
theorem capture_of_quiet {s : State} {i : Slot} (h : (s.slot i).pendingForce = none)
    (sw : SwitchRec) :
    capture s i sw = s.setSlot i { s.slot i with state := .draining, switch := some sw } := by
  unfold capture
  rw [takeForce_of_none]
  rw [State.slot_setSlot]
  exact h

/-- A decode that captures: its place in the stores, its charge, and DRAINING with the switch record. -/
theorem takeDecode_captured {s : State} {i : Slot} {r : Request} {b : Binding} {w : Window}
    {p : MemPort} {target : Nat → Addr} {x : Bool} (hd : s.device ≠ .direct)
    (hb : (s.slot i).binding = some b) (hf : (s.slot i).pendingForce = none)
    (hw : s.watchWindow i r (allIssuable (granuleCount r.addr r.length) p target x) = some w) :
    { takeDecode s i r (allIssuable (granuleCount r.addr r.length) p target x) with
        pointer := i + 1 } =
      (s.decoded i r p target true (s.presetData i r)).setSlot i
        { s.slot i with
          state := .draining
          binding := some (b.afterTaken s r (if x then 0 else granuleCount r.addr r.length))
          switch := some (captured r w) } := by
  have hplaced := placed_allIssuable s i r true p target x
  rw [takeDecode_of_watch hw]
  revert hplaced
  generalize logDecode (placeDecode _ i r true _) i r _ = t
  intro hplaced
  have hdev := congrArg State.device hplaced
  have hroot := congrArg State.root hplaced
  have hslot := congrArg (State.slot · i) hplaced
  rw [chargeBinding_allIssuable (s := s) (t := t) hdev hd hroot hslot hb, capture_of_quiet,
    State.slot_setSlot, State.setSlot_setSlot]
  · exact congrArg (State.setSlot · i _) hplaced
  · rw [State.slot_setSlot]
    exact hf

/-- The one granule of a watched write passes its window, at the window's target base. -/
theorem decodeRequest_of_watched {s : State} {i : Slot} {r : Request} {b : Binding} {w : Window}
    (hd : s.device ≠ .direct) (hb : (s.slot i).binding = some b) (hn : granuleCount r.addr r.length = 1)
    (hdec : DecidedBy s i r 0 w) (hp : w.port = .primary) (hl : LaneOk w r)
    (ht : LevelOk w r b.level) (hbase : w.reqBase = r.addr) (hg : ¬GuardStops s.root b r w.tgtBase) :
    decodeRequest s i r =
      allIssuable (granuleCount r.addr r.length) .primary (fun _ => w.tgtBase) w.exempt := by
  have hzero : ∀ j < granuleCount r.addr r.length,
      j = 0 ∧ w.translate (firstByte r.addr j) = w.tgtBase := by
    intro j hj
    obtain rfl : j = 0 := by omega
    have hfirst : firstByte r.addr 0 = w.reqBase.toNat := by rw [hbase]; rfl
    exact ⟨rfl, by rw [hfirst, translate_base]⟩
  rw [decodeRequest_of_window hd hb (fun j hj => by rw [(hzero j hj).1]; exact hdec)
    (by rw [hp]; rfl) hl ht fun j hj => by rw [(hzero j hj).2]; exact hg]
  unfold allIssuable
  refine List.map_congr_left fun j hj => ?_
  simp only [(hzero j (List.mem_range.mp hj)).2]

/-- Settles O15: the write is decoded as any other, and its slot record then takes the switch record. -/
theorem watchedWriteIsCaptured : Obligations.WatchedWriteIsCaptured := by
  refine ⟨⟨rfl, rfl, rfl, fun code h1 h2 h3 => mailboxKind_undefined h1 h2 h3⟩, ?_⟩
  intro s i r b w h hrun hb hforce hop hlane hlen hmask hdec hbase halign hwatch hp ht hg ha hfree
  have hd : s.device ≠ .direct := by rw [hrun]; simp
  have hn : granuleCount r.addr r.length = 1 := by rw [hlen]; exact granuleCount_of_aligned halign
  have hl : LaneOk w r := fun hx => absurd (hlane.symm.trans hx) (by simp)
  have hj := decodeRequest_of_watched hd hb hn hdec hp hl ht hbase hg
  have hh : s.holds i r
      (allIssuable (granuleCount r.addr r.length) .primary (fun _ => w.tgtBase) w.exempt) = false :=
    not_holds_of_allIssuable hb (by rw [hn]; exact ha)
  have hhead : headIssuable
      (allIssuable (granuleCount r.addr r.length) .primary (fun _ => w.tgtBase) w.exempt) = true := by
    rw [hn]
    rfl
  have hw := watchWindow_of_watched hrun hop hlane hlen hmask hhead (windowOf_of_decidedBy hdec) hbase
    hwatch
  rw [exec_decodeAttempt_of_chosen h, attempt_of_taken hj hh
    (by rw [issuableCount_allIssuable]; omega), takeDecode_captured hd hb hforce hw,
    presetData_of_binding hd hb, if_neg (by rw [hop]; simp)]
  rw [hn]
  rfl

end Sys2Proof.Machine
end

section
/-! PROOFS. The memory ports: the issue of the A-port, the next identifier of a pool, the settlement of a
granule that ends nothing else, and the merged status of a request. -/

namespace Sys2Proof.Machine

/-! ### The issue of the A-port (R73) -/

theorem auxIssue_of_oldestWaiting {s : State} {before after : List TrackerEntry} {e : TrackerEntry}
    {id : IssueId} (hr : s.resetHeld = false) (he : OldestWaiting s .aux before e after)
    (hid : s.aPool.next = some id) : auxIssue s = issueGranule s .aux e id := by
  unfold auxIssue
  rw [hr, oldestWaiting_eq_some he, hid]
  rfl

theorem auxIssue_of_nothing {s : State}
    (h : s.resetHeld = true ∨ NoneWaiting s .aux ∨ s.aPool.next = none) : auxIssue s = s := by
  unfold auxIssue
  rcases h with hr | hw | hid
  · rw [if_pos hr]
  · rw [oldestWaiting_eq_none hw]
    exact ite_self s
  · rw [hid]
    cases s.oldestWaiting .aux <;> exact ite_self s

/-- Settles O16: the granule found first is issued, under the identifier that the pool gives. -/
theorem auxPortIssuesTheOldestGranule : Obligations.AuxPortIssuesTheOldestGranule := by
  refine ⟨fun s before after e id hr he hid => ?_, fun s h => ?_⟩
  · show finish (auxIssue s) = _
    rw [auxIssue_of_oldestWaiting hr he hid, issueGranule_of_oldestWaiting he]
    rfl
  · show finish (auxIssue s) = _
    rw [auxIssue_of_nothing h]
    rfl

/-! ### The next identifier (R75) -/

/-- The search of a pool is one over the distances from the identifier after the one given last. -/
theorem next_eq_some_iff {q : IdPool} {id : IssueId} :
    q.next = some id ↔ ∃ n < 256, id = q.last + 1 + BitVec.ofNat 8 n ∧
      q.get id = .free ∧ ∀ m < n, q.get (q.last + 1 + BitVec.ofNat 8 m) ≠ .free := by
  unfold IdPool.next
  rw [List.find?_map, Option.map_eq_some_iff]
  constructor
  · rintro ⟨n, hn, rfl⟩
    obtain ⟨hp, hlt, hmin⟩ := List.find?_range_eq_some.mp hn
    exact ⟨n, List.mem_range.mp hlt, rfl, by simpa using hp, fun m hm => by simpa using hmin m hm⟩
  · rintro ⟨n, hn, rfl, hp, hmin⟩
    refine ⟨n, List.find?_range_eq_some.mpr ⟨by simpa using hp, List.mem_range.mpr hn, ?_⟩, rfl⟩
    exact fun m hm => by simpa using hmin m hm

theorem distance_eq (id base : BitVec 8) : base + BitVec.ofNat 8 (id - base).toNat = id := by
  rw [BitVec.ofNat_toNat, BitVec.setWidth_eq]
  bv_omega

/-- Settles O18: the distances that the search runs through are those of the identifiers, once each. -/
theorem nextIdentifierIsTheFirstFree : Obligations.NextIdentifierIsTheFirstFree := by
  intro q
  refine ⟨fun id => ?_, ?_⟩
  · rw [next_eq_some_iff]
    constructor
    · rintro ⟨n, hn, hid, hfree, hmin⟩
      refine ⟨hfree, fun k hk => ?_⟩
      have hlt : k.toNat < n := by
        rw [hid] at hk
        bv_omega
      have := hmin k.toNat hlt
      rwa [BitVec.ofNat_toNat, BitVec.setWidth_eq] at this
    · rintro ⟨hfree, hmin⟩
      refine ⟨(id - (q.last + 1)).toNat, (id - (q.last + 1)).isLt, (distance_eq _ _).symm, hfree,
        fun m hm => hmin _ ?_⟩
      bv_omega
  · unfold IdPool.next
    rw [List.find?_eq_none]
    constructor
    · intro h id hfree
      refine h id (List.mem_map.mpr ⟨(id - (q.last + 1)).toNat, ?_, distance_eq _ _⟩) (by simpa using hfree)
      exact List.mem_range.mpr (id - (q.last + 1)).isLt
    · intro h id _
      simpa using h id

/-! ### The settlement of a granule that ends nothing else (R79, R80, R82) -/

/-- The settlement is all that happens. -/
theorem exec_settles_plain {s u : State} {c : Instr} {e : TrackerEntry} {rest : List TrackerEntry}
    {st : RespStatus} (h : GranuleSettles s c e rest st u) (hw : e.watched = false)
    (hn : EndsNothing s e.slot) : exec c s = .next u.latchNotice := by
  obtain ⟨-, hdev, -⟩ := h.parts
  have hu : EndsNothing u e.slot := by
    unfold EndsNothing
    rw [h.slot e.slot, hdev]
    exact hn
  rw [exec_of_granuleSettles h, reportWatch_of_plain st hw, afterGranule_of_endsNothing hu]
  rfl

/-- A request with a granule unsettled keeps its entry (R42). -/
theorem granuleSettled_of_unsettled {o : Outstanding} (h : ∃ j, o.unsettledAt j) (s : State)
    (p : MemPort) (id : IssueId) (st : IdState) (log : FaultLog) (rest : List TrackerEntry)
    (before after : List Outstanding) (n : Nat) :
    s.granuleSettled p id st log rest before o after n =
      { s.granuleReleased p id st rest with
        outstanding := before ++ o :: after
        log := log
        freeCount := s.freeCount + n } := by
  unfold State.granuleSettled
  rw [if_pos ((any_unsettled_iff o).mpr h), if_pos ((any_unsettled_iff o).mpr h)]
  cases p <;> rfl

/-- A request with none unsettled is completed. -/
theorem granuleSettled_of_settled {o : Outstanding} (h : ¬∃ j, o.unsettledAt j) (s : State)
    (p : MemPort) (id : IssueId) (st : IdState) (log : FaultLog) (rest : List TrackerEntry)
    (before after : List Outstanding) (n : Nat) :
    s.granuleSettled p id st log rest before o after n =
      { s.granuleReleased p id st rest with
        outstanding := before ++ after
        completions := s.completions ++ [o.completion]
        log := log
        freeCount := s.freeCount + n } := by
  have hu : ¬o.granules.any (·.unsettled) = true := fun hx => h ((any_unsettled_iff o).mp hx)
  unfold State.granuleSettled
  rw [if_neg hu, if_neg hu]

/-- Settles O19: it is a settlement by an OK response, with the entry kept or completed. -/
theorem okResponseSettlesItsGranule : Obligations.OkResponseSettlesItsGranule := by
  intro s p id data before after e eb ea o o' hg he hw hn hd ho'
  have hsettles : GranuleSettles s (.responseArrival p id .ok data) e (before ++ after) .ok
      (s.granuleSettled p id .free s.log (before ++ after) eb (o.settledOk e data) ea
        (e.count - data.length)) :=
    ⟨p, id, before, after, eb, o, ea, hg, he, rfl, Or.inl ⟨data, rfl, rfl, hd, rfl⟩⟩
  obtain rfl : o' = o.settledOk e data := ho'
  rw [exec_settles_plain hsettles hw hn]
  constructor
  · intro hu
    rw [granuleSettled_of_unsettled hu]
    cases p <;> rfl
  · intro hu
    rw [granuleSettled_of_settled hu]
    cases p <;> rfl

/-- Settles O20: it is a settlement by an ERROR response. -/
theorem errorResponseSettlesItsGranule : Obligations.ErrorResponseSettlesItsGranule := by
  intro s p id before after e eb ea o hg he hw hn
  have hsettles : GranuleSettles s (.responseArrival p id .error []) e (before ++ after) .error
      (s.granuleSettled p id .free (s.log.join (granuleFault s .memoryError e o)) (before ++ after)
        eb (o.settledAs e.granule .error) ea e.count) :=
    ⟨p, id, before, after, eb, o, ea, hg, he, rfl, Or.inr (Or.inl ⟨rfl, rfl, rfl⟩)⟩
  rw [exec_settles_plain hsettles hw hn]
  exact ⟨fun hu => by rw [granuleSettled_of_unsettled hu],
    fun hu => by rw [granuleSettled_of_settled hu]⟩

/-- Settles O21: it is a settlement by the expiry of the response limit, no time being left to pass. -/
theorem expiredGranuleSettlesAsError : Obligations.ExpiredGranuleSettlesAsError := by
  intro s p id before after e f eb ea o hg he hw hn hf hl ht hc
  have hreached : LimitReached s f.time :=
    ⟨hl, ht, fun hr => hc.resolve_right (by rw [hr]; simp)⟩
  have hsettles : GranuleSettles s (.responseLimitExpiry p id) e (before ++ after) .error
      (s.granuleSettled p id .retired (s.log.join (granuleFault s .timeout e o)) (before ++ after)
        eb (o.settledAs e.granule .error) ea e.count) :=
    ⟨p, id, before, after, eb, o, ea, hg, he, rfl,
      Or.inr (Or.inr ⟨rfl, rfl, ⟨f, hf, hreached⟩, rfl⟩)⟩
  rw [exec_settles_plain hsettles hw hn]
  exact ⟨fun hu => by rw [granuleSettled_of_unsettled hu],
    fun hu => by rw [granuleSettled_of_settled hu]⟩

/-! ### The merged status (R64, R65) -/

theorem isIssuable_eq_false_iff (g : GranuleOutcome) :
    g.isIssuable = false ↔ ∃ f, g = .failed f := by
  cases g <;> simp [GranuleOutcome.isIssuable]

theorem any_error_iff (o : Outstanding) :
    o.granules.any (fun g => decide (g.settled = some .error)) = true ↔
      ∃ g ∈ o.granules, g.settled = some .error := by
  simp [List.any_eq_true]

theorem any_failed_iff (o : Outstanding) :
    o.granules.any (fun g => !g.outcome.isIssuable) = true ↔
      ∃ g ∈ o.granules, ∃ f, g.outcome = .failed f := by
  simp [List.any_eq_true, isIssuable_eq_false_iff]

theorem failing_iff (g : OutGranule) :
    g.failing = true ↔ g.settled = some .error ∨ ∃ f, g.outcome = .failed f := by
  unfold OutGranule.failing
  rw [Bool.or_eq_true, Bool.not_eq_true', isIssuable_eq_false_iff, decide_eq_true_iff, or_comm]

/-- A request is OK exactly when none of its granules fails. -/
theorem status_ne_ok_iff (o : Outstanding) :
    o.status ≠ .ok ↔ ∃ g ∈ o.granules, g.failing = true := by
  unfold Outstanding.status
  split
  next he =>
    obtain ⟨g, hg, hx⟩ := (any_error_iff o).mp he
    exact iff_of_true (by simp) ⟨g, hg, (failing_iff g).mpr (Or.inl hx)⟩
  next he =>
    split
    next hf =>
      obtain ⟨g, hg, hx⟩ := (any_failed_iff o).mp hf
      exact iff_of_true (by simp) ⟨g, hg, (failing_iff g).mpr (Or.inr hx)⟩
    next hf =>
      refine iff_of_false (by simp) ?_
      rintro ⟨g, hg, hx⟩
      rcases (failing_iff g).mp hx with hx | hx
      · exact he ((any_error_iff o).mpr ⟨g, hg, hx⟩)
      · exact hf ((any_failed_iff o).mpr ⟨g, hg, hx⟩)

/-- Settles O22: the status looks for an ERROR first and a failed outcome second, and the first failing
granule is the first of either. -/
theorem completionStatusIsMerged : Obligations.CompletionStatusIsMerged := by
  intro o
  have hstatus : o.completion.status = o.status := rfl
  rw [hstatus]
  refine ⟨fun he => ?_, fun he hf => ?_, fun he hf => ?_, fun hne => ?_⟩
  · unfold Outstanding.status
    rw [if_pos ((any_error_iff o).mpr he)]
  · unfold Outstanding.status
    rw [if_neg fun h => he ((any_error_iff o).mp h), if_pos ((any_failed_iff o).mpr hf)]
  · have hok : o.status = .ok := by
      unfold Outstanding.status
      rw [if_neg fun h => he ((any_error_iff o).mp h), if_neg fun h => hf ((any_failed_iff o).mp h)]
    refine ⟨hok, ?_⟩
    unfold Outstanding.completion
    rw [if_pos hok]
  · obtain ⟨g, hg, hfail⟩ := (status_ne_ok_iff o).mp hne
    have hsome : (o.granules.findIdx? (·.failing)).isSome = true := by
      rw [List.findIdx?_isSome, List.any_eq_true]
      exact ⟨g, hg, hfail⟩
    obtain ⟨n, hn⟩ := Option.isSome_iff_exists.mp hsome
    obtain ⟨hlt, hat, hmin⟩ := List.findIdx?_eq_some_iff_getElem.mp hn
    refine ⟨n, o.granules[n], ?_, List.getElem?_eq_getElem hlt, (failing_iff _).mp hat, ?_⟩
    · unfold Outstanding.completion
      rw [if_neg hne, hn]
    · intro m hm h hh
      obtain ⟨hm', rfl⟩ := List.getElem?_eq_some_iff.mp hh
      have := hmin m hm
      rw [failing_iff] at this
      push Not at this
      exact this

end Sys2Proof.Machine
end

section
/-! PROOFS. The switch sequence: failed table operations, the writes of CLOSING, the gate of a CALL, and
the read of a record. -/

namespace Sys2Proof.Machine

/-! ### Failed reads and writes (R82, R102, R134, R138) -/

/-- A read of a stage that settles failed fails its switch with TABLE_ERROR. -/
theorem slotOpFailed_of_read {w : TableWhat} {st : SlotState}
    (h : (st = .resolving ∧ (w = .directoryRead ∨ w = .gateRead)) ∨
      ((st = .loading ∨ st = .binding) ∧ (w = .recordRead ∨ w = .extensionRead ∨
        w = .runHeaderRead ∨ w = .descriptorRead))) :
    w.inStage st = true ∧
      ∀ s i sw timedOut, slotOpFailed s i sw w timedOut = failSwitch s i .tableError := by
  rcases h with ⟨rfl, rfl | rfl⟩ | ⟨rfl | rfl, rfl | rfl | rfl | rfl⟩ <;>
    exact ⟨rfl, fun _ _ _ _ => rfl⟩

/-- Settles O30: a failed operation hands its failure to the switch, which fails with the operation's code. -/
theorem failedReadFailsTheSwitch : Obligations.FailedReadFailsTheSwitch := by
  intro s t id i op c ids st sw hf ho hs ht
  subst ht
  refine ⟨fun hw => ?_, fun hst hw => ⟨fun hc => ?_, fun hc => ?_⟩⟩
  · obtain ⟨hstage, hfail⟩ := slotOpFailed_of_read hw
    obtain ⟨timedOut, -, hexec⟩ :=
      exec_fails_of hf ho hs.switch (by rw [hs.state]; exact hstage)
    rw [hexec, hfail, hs.fails id ids op.length (by simp)]
  all_goals
    obtain ⟨timedOut, htime, hexec⟩ :=
      exec_fails_of hf ho hs.switch (by rw [hs.state, hst, hw]; rfl)
    have hfail : slotOpFailed (s.tableSettled id ids op.length) i sw op.what timedOut =
        failSwitch (s.tableSettled id ids op.length) i (savedFailure timedOut) := by rw [hw]; rfl
    rw [hexec, hfail]
  · have hresp : timedOut ≠ true := fun h => by
      obtain ⟨_, _, hx⟩ := htime.mp h
      exact absurd (hc.symm.trans hx) (by simp)
    rw [Bool.eq_false_iff.mpr hresp]
    rw [show savedFailure false = .saveFailed from rfl, hs.fails id ids op.length (by simp)]
  · obtain rfl : timedOut = true := htime.mpr ⟨_, _, hc⟩
    rw [show savedFailure true = .tableError from rfl, hs.fails id ids op.length (by simp)]

/-! ### The writes of CLOSING (R125, R143, R144) -/

/-- Settles O31: a closing write that fails differs from one that is OK by its CLOSE record alone. -/
theorem mailboxSwitchEndsAtItsResultWrite : Obligations.MailboxSwitchEndsAtItsResultWrite := by
  intro s t id i op c ids failed sw hw ho hs ht
  have htakes : t.root ≠ none ∨ (t.slot i).pendingForce = none := by rw [ht]; exact hs.takes
  have hswitch : (t.slot i).switch = some sw := by rw [ht]; exact hs.switch
  have hslot : t.slot i = s.slot i := by rw [ht]; rfl
  refine ⟨fun hx => ?_, fun hx => ?_⟩
  · rw [exec_write_settles hw ho hs.switch (by rw [hs.state, hx]; rfl) (by rw [hx]; simp), hx]
    have hclose : (if failed = true then
          slotOpFailed (s.tableSettled id ids op.length) i sw .headerWrite false
        else slotOpOk (s.tableSettled id ids op.length) i sw .headerWrite []) = closeResult t i sw := by
      rw [ht]
      cases failed <;> rfl
    rw [hclose, conclude_closeResult htakes hswitch, hslot]
  · rw [exec_write_settles hw ho hs.switch (by rw [hs.state, hx]; rfl) (by rw [hx]; simp), hx]
    have hleave : (if failed = true then
          slotOpFailed (s.tableSettled id ids op.length) i sw .resultWrite false
        else slotOpOk (s.tableSettled id ids op.length) i sw .resultWrite []) = leaveSwitch t i sw := by
      rw [ht]
      cases failed <;> rfl
    rw [hleave, conclude_leaveSwitch htakes, hslot]

/-! ### A read that settles OK -/

/-- A read that settles OK with all its bytes is handed to its switch. -/
theorem exec_read_ok {s : State} {id : IssueId} {i : Slot} {w : TableWhat} {a : Addr} {n : Nat}
    {st : SlotState} {sw : SwitchRec} {data : List Byte} (ht : TableIssued s id (readOp i w a n))
    (hs : Switching s i st sw) (hw : w.inStage st = true) (hd : data.length = n) :
    exec (.responseArrival .primary id .ok data) s = .next
      ((conclude (slotOpOk (s.tableSettled id .free 0) i sw w data) i).movesOn).latchNotice := by
  rw [exec_ok_of ht rfl hs hw fun _ => hd]
  show Host.Outcome.next (State.latchNotice (State.movesOn (conclude
    (slotOpOk (s.tableSettled id .free (n - data.length)) i sw w data) i))) = _
  rw [hd, Nat.sub_self]

/-! ### The gate of a CALL (R102 to R104) -/

/-- A gate list is no usable one, or does not reach the entry (R103). -/
theorem outOfRange_iff (data : List Byte) (entry : Byte) :
    (parseDirEntry data).outOfRange entry = true ↔
      field data 5 1 = 0 ∨ 128 < field data 5 1 ∨ field data 0 5 % 16 ≠ 0 ∨
        2 ^ 40 < field data 0 5 + 16 * field data 5 1 ∨ field data 5 1 ≤ entry.toNat := by
  unfold DirEntry.outOfRange parseDirEntry Config.addrSpace
  simp only [Bool.or_eq_true, decide_eq_true_iff, Bool.not_eq_true', ← Bool.not_eq_true, alignedTo_iff,
    addrField_toNat, or_assoc, ne_eq]

theorem directoryLoaded_of_bad {data : List Byte} {g : GateRef}
    (h : (parseDirEntry data).outOfRange g.entry = true) (s : State) (i : Slot) :
    directoryLoaded s i g data = failSwitch s i .gateRange := by
  unfold directoryLoaded
  rw [if_pos h]

theorem directoryLoaded_of_good {data : List Byte} {g : GateRef}
    (h : ¬(parseDirEntry data).outOfRange g.entry = true) (s : State) (i : Slot) :
    directoryLoaded s i g data = s.queueTable
      (readOp i .gateRead (tableAddr (field data 0 5 + 16 * g.entry.toNat)) 16) := by
  unfold directoryLoaded
  rw [if_neg h]
  show s.queueTable (slotRead i .gateRead
    (tableAddr ((addrField data 0).toNat + 16 * g.entry.toNat)) 16) = _
  rw [addrField_toNat]
  rfl

/-- The caller ceiling (R102, R104): a mailbox's CALL meets it, a force's does not. -/
theorem ceilingDenies_iff (sw : SwitchRec) (b : Binding) (g : GateEntry) :
    ceilingDenies sw (some b) g = true ↔ sw.origin = .mailbox ∧ g.ceiling < b.level := by
  unfold ceilingDenies
  cases sw.origin <;> simp

/-- The last steps of R102, in their order. -/
theorem gateLoaded_cases {s : State} {i : Slot} {sw : SwitchRec} {b : Binding} {data : List Byte}
    {g : GateEntry} (hg : parseGate data = g) (hb : (s.slot i).binding = some b) :
    (g.valid = false → gateLoaded s i sw data = failSwitch s i .gateEmpty) ∧
    (g.valid = true → sw.origin = .mailbox → g.ceiling < b.level →
      gateLoaded s i sw data = failSwitch s i .levelDenied) ∧
    (g.valid = true → sw.origin = .force ∨ b.level ≤ g.ceiling → g.transfer = false →
      8 ≤ (s.slot i).stack.length → gateLoaded s i sw data = failSwitch s i .stackFull) ∧
    (g.valid = true → sw.origin = .force ∨ b.level ≤ g.ceiling →
      (g.transfer = true ∨ (s.slot i).stack.length < 8) →
      gateLoaded s i sw data = resolved s i sw g.target g.entryLevel g.transfer) := by
  have hpass : sw.origin = .force ∨ b.level ≤ g.ceiling → ¬ceilingDenies sw (some b) g = true := by
    rintro ho hx
    obtain ⟨hm, hlt⟩ := (ceilingDenies_iff sw b g).mp hx
    rcases ho with ho | ho
    · exact absurd (hm.symm.trans ho) (by simp)
    · exact absurd hlt (not_lt.mpr ho)
  unfold gateLoaded
  dsimp only
  rw [hg, hb]
  refine ⟨fun hv => ?_, fun hv ho hc => ?_, fun hv ho htr hfull => ?_, fun hv ho hroom => ?_⟩
  · rw [if_pos hv]
  · rw [if_neg (by simp [hv]), if_pos ((ceilingDenies_iff sw b g).mpr ⟨ho, hc⟩)]
  · rw [if_neg (by simp [hv]), if_neg (hpass ho), if_pos ⟨htr, hfull⟩]
  · rw [if_neg (by simp [hv]), if_neg (hpass ho), if_neg]
    rintro ⟨htr, hfull⟩
    rcases hroom with hroom | hroom
    · exact absurd (htr.symm.trans hroom) (by simp)
    · exact absurd hfull (Nat.not_le.mpr hroom)

/-- A CALL's resolution saves the outgoing context's counts where its binding keeps (R133). -/
theorem resolvedTo_of_keep {s : State} {i : Slot} {sw : SwitchRec} {b : Binding}
    (hk : sw.kind = .call ∨ sw.kind = .ret) (hb : b.keep = true) (a : Addr) (l : Level) (tr : Bool) :
    s.resolvedTo i sw b a l tr =
      State.setSlot { s with tfu := { s.tfu with queue := s.tfu.queue ++ [savedOp i b] } } i
        { s.slot i with
          state := .saving
          switch := some { sw with target := some a, level := some l, transfer := tr } } := by
  unfold State.resolvedTo
  rw [if_pos ⟨hk, hb⟩]

theorem resolvedTo_of_no_keep {s : State} {i : Slot} {sw : SwitchRec} {b : Binding}
    (hb : b.keep = false) (a : Addr) (l : Level) (tr : Bool) :
    s.resolvedTo i sw b a l tr = s.loadOpened i { sw with level := some l, transfer := tr } a := by
  unfold State.resolvedTo
  rw [if_neg]
  rintro ⟨_, hx⟩
  exact absurd (hb.symm.trans hx) (by simp)

/-- Settles O25: the directory entry is checked as a whole, and the gate entry step by step. -/
theorem gateEntryDecidesTheCall : Obligations.GateEntryDecidesTheCall := by
  refine ⟨fun s id i a data sw g ht hs hg hd => ⟨fun hbad => ?_, fun h1 h2 h3 h4 h5 => ?_⟩, ?_⟩
  · have hok : slotOpOk (s.tableSettled id .free 0) i sw .directoryRead data =
        directoryLoaded (s.tableSettled id .free 0) i g data := by unfold slotOpOk; rw [hg]
    rw [exec_read_ok ht hs rfl hd, hok, directoryLoaded_of_bad ((outOfRange_iff _ _).mpr hbad),
      hs.fails id .free 0 (by simp)]
  · have hok : slotOpOk (s.tableSettled id .free 0) i sw .directoryRead data =
        directoryLoaded (s.tableSettled id .free 0) i g data := by unfold slotOpOk; rw [hg]
    rw [exec_read_ok ht hs rfl hd, hok,
      directoryLoaded_of_good (by rw [outOfRange_iff]; omega), tableAddr_of_lt (by omega),
      conclude_later]
    · rfl
    · exact Or.inr (Or.inl hs.state)
  · intro s id i a data sw b valid transfer ceiling entry target ht hs hk hb hd hv htr hc he hta
    have hgate : parseGate data =
        { valid := valid, transfer := transfer, ceiling := ceiling, entryLevel := entry,
          target := target } := by
      unfold parseGate
      rw [← hv, ← htr, hta, levelOf_eq (byteAt data 1) 0 (l := ceiling) (by rw [hc]; simp),
        levelOf_eq (byteAt data 1) 4 (l := entry) (by rw [he]; norm_num)]
      rfl
    obtain ⟨hempty, hdenied, hfull, hpass⟩ :=
      gateLoaded_cases (s := s.tableSettled id .free 0) (sw := sw) hgate hb
    have hexec := exec_read_ok ht hs rfl hd
    refine ⟨fun hx => ?_, fun hx ho hlt => ?_, fun hx ho htf hst => ?_, fun hx ho hroom =>
      ⟨fun hkeep => ?_, fun hkeep => ?_⟩⟩
    · rw [hexec, show slotOpOk _ i sw .gateRead data = _ from hempty hx, hs.fails id .free 0 (by simp)]
    · rw [hexec, show slotOpOk _ i sw .gateRead data = _ from hdenied hx ho hlt,
        hs.fails id .free 0 (by simp)]
    · rw [hexec, show slotOpOk _ i sw .gateRead data = _ from hfull hx ho htf hst,
        hs.fails id .free 0 (by simp)]
    · rw [hexec, show slotOpOk _ i sw .gateRead data = _ from hpass hx ho hroom,
        conclude_resolved (s := s.tableSettled id .free 0) hs.takes hb,
        resolvedTo_of_keep (Or.inl hk) hkeep]
      rfl
    · rw [hexec, show slotOpOk _ i sw .gateRead data = _ from hpass hx ho hroom,
        conclude_resolved (s := s.tableSettled id .free 0) hs.takes hb, resolvedTo_of_no_keep hkeep]

end Sys2Proof.Machine
end

section
/-! PROOFS. The load of a switch: the record read, the window list read run by run, and the commits. -/

namespace Sys2Proof.Machine

/-! ### The record read (R136, R137) -/

/-- The reads of a load are made in LOADING and BINDING. -/
theorem inStage_of_loading {st : SlotState} (h : st = .loading ∨ st = .binding) {w : TableWhat}
    (hw : w = .recordRead ∨ w = .extensionRead ∨ w = .runHeaderRead ∨ w = .descriptorRead) :
    w.inStage st = true := by
  rcases h with rfl | rfl <;> rcases hw with rfl | rfl | rfl | rfl <;> rfl

/-- The next run header read of a load is queued (R138). -/
theorem conclude_readHeader {t : State} {i : Slot}
    (h : (t.slot i).state = .loading ∨ (t.slot i).state = .binding) (sw : SwitchRec) (n : Nat) :
    conclude (readHeader t i sw n) i =
      State.setSlot
        { t with
          tfu := { t.tfu with queue := t.tfu.queue ++ [readOp i .runHeaderRead (tableAddr n) 8] } } i
        { t.slot i with
          switch := some { sw with cursor := some { header := tableAddr n, count := 0, index := 0 } } } := by
  unfold readHeader
  rw [conclude_nextRead h]
  rfl

/-- A record is bad by its format tag or its list address (R137). -/
theorem bad_iff {data : List Byte} {l : Loaded} (hd : 8 ≤ data.length)
    (hh : l.header = BitVec.ofNat 64 (field data 0 8))
    (ha : l.listAddr = BitVec.ofNat 40 (field data 8 5)) :
    l.bad = true ↔ field data 0 2 ≠ 0xC7A1 ∨ field data 8 5 % 8 ≠ 0 := by
  obtain ⟨_, _, _, _, _, htag⟩ := header_fields hd hh
  have haddr : l.listAddr.toNat = field data 8 5 := by rw [ha]; exact addrField_toNat data 8
  have htag' : l.formatTag = 0xC7A1#16 ↔ field data 0 2 = 0xC7A1 := by
    rw [← htag]
    exact BitVec.toNat_inj.symm
  unfold Loaded.bad
  rw [Bool.or_eq_true, bne_iff_ne, Bool.not_eq_true', ← Bool.not_eq_true, alignedTo_iff, haddr, ne_eq,
    htag']

/-- Settles O26: a saved-area write opens the load; the record read is checked and goes on by EXT. -/
theorem recordReadIsChecked : Obligations.RecordReadIsChecked := by
  refine ⟨fun s id i b sw a ht hs ha => ?_, fun s id i a data st sw l ht hs hst hl hd => ?_,
    fun s id i a data st sw l ht hs hst ha hd hl => ?_, fun data l hd hh => ?_⟩
  · have hok : slotOpOk (s.tableSettled id .free 16) i sw .savedWrite [] =
        beginLoad (s.tableSettled id .free 16) i sw a := by unfold slotOpOk; rw [ha]
    have hexec := exec_ok_of (data := []) ht rfl hs rfl (by simp [savedOp])
    rw [hexec, ← conclude_beginLoad (s := s.tableSettled id .free 16) hs.takes, ← hok]
    rfl
  · have hok : slotOpOk (s.tableSettled id .free 0) i sw .extensionRead data =
        extensionLoaded (s.tableSettled id .free 0) i sw l data := by unfold slotOpOk; rw [hl]
    have hstate : ((s.tableSettled id .free 0).slot i).state = .loading ∨
        ((s.tableSettled id .free 0).slot i).state = .binding := by
      rw [tableSettled_slot, hs.state]; exact hst
    rw [exec_read_ok ht hs (inStage_of_loading hst (by simp)) hd, hok]
    unfold extensionLoaded
    rw [conclude_readHeader hstate, tableAddr_toNat]
    rfl
  · have hok : slotOpOk (s.tableSettled id .free 0) i sw .recordRead data =
        recordLoaded (s.tableSettled id .free 0) i sw a data := by unfold slotOpOk; rw [ha]
    have hstate : ((s.tableSettled id .free 0).slot i).state = .loading ∨
        ((s.tableSettled id .free 0).slot i).state = .binding := by
      rw [tableSettled_slot, hs.state]; exact hst
    have hparse : parseRecord data = l := by rw [hl]; rfl
    have hheader : l.header = BitVec.ofNat 64 (field data 0 8) := by rw [hl]
    have hbad := bad_iff (by omega) hheader (by rw [hl])
    have hext := (header_fields (by omega) hheader).2.2.1
    rw [exec_read_ok ht hs (inStage_of_loading hst (by simp)) hd, hok]
    unfold recordLoaded
    dsimp only
    rw [hparse]
    refine ⟨fun hx => ?_, fun htag hlist hx hlt => ?_, fun htag hlist hx => ?_⟩
    · rw [if_pos (hbad.mpr hx), hs.fails id .free 0 (by simp)]
    · rw [if_neg (by rw [hbad]; simp [htag, hlist]), if_pos (hext.trans hx), conclude_nextRead hstate,
        tableAddr_of_lt hlt]
      rfl
    · rw [if_neg (by rw [hbad]; simp [htag, hlist]), if_neg (by rw [hext, hx]; simp),
        conclude_readHeader hstate, tableAddr_toNat]
      rfl
  · obtain ⟨h1, h2, h3, h4, h5, -⟩ := header_fields hd hh
    exact ⟨h1, h2, h3, h4, h5⟩

/-! ### Window descriptors (R11, R12, R184) -/

/-- The port code of a descriptor. -/
def portCode (data : List Byte) : Nat := (byteAt data 6).toNat % 4

/-- A descriptor's fields with its port, before its checks. -/
def rawWindow (data : List Byte) (p : WindowPort) : Window :=
  { reqBase := addrField data 0
    pages := field data 13 3
    tgtBase := addrField data 8
    port := p
    readThr := thresholdOf ((byteAt data 5).extractLsb' 0 3)
    writeThr := thresholdOf ((byteAt data 5).extractLsb' 4 3)
    watch := (byteAt data 6).getLsbD 4
    priorityOk := (byteAt data 6).getLsbD 5
    exempt := (byteAt data 6).getLsbD 6 }

theorem readWindow_eq (data : List Byte) :
    readWindow data = (portOf ((byteAt data 6).extractLsb' 0 2)).map (rawWindow data) := rfl

/-- Codes 0, 1 and 2 name the ports, and 3 names none. -/
theorem portOf_cases (data : List Byte) :
    (portCode data = 3 ∧ portOf ((byteAt data 6).extractLsb' 0 2) = none) ∨
      portCode data ≠ 3 ∧ ∃ p, portOf ((byteAt data 6).extractLsb' 0 2) = some p ∧
        (p = .hole ↔ portCode data = 0) ∧ (p = .primary ↔ portCode data = 1) ∧
        (p = .aux ↔ portCode data = 2) := by
  have hcode : ((byteAt data 6).extractLsb' 0 2).toNat = portCode data := by
    rw [BitVec.extractLsb'_toNat]
    rfl
  have hlt : portCode data < 4 := Nat.mod_lt _ (by norm_num)
  unfold portOf
  rw [hcode]
  interval_cases portCode data
  · exact Or.inr ⟨by simp, .hole, rfl, by simp⟩
  · exact Or.inr ⟨by simp, .primary, rfl, by simp⟩
  · exact Or.inr ⟨by simp, .aux, rfl, by simp⟩
  · exact Or.inl ⟨rfl, rfl⟩

/-- The checks of R12. -/
theorem window_ok_iff (w : Window) :
    w.ok = true ↔ 1 ≤ w.pages ∧ w.pages ≤ 1048576 ∧ w.reqBase.toNat % 4096 = 0 ∧
      w.tgtBase.toNat % 4096 = 0 ∧ w.reqBase.toNat + w.pages * 4096 ≤ 2 ^ 40 ∧
      w.tgtBase.toNat + w.pages * 4096 ≤ 2 ^ 40 ∧ (w.watch = true → w.port = .primary) := by
  unfold Window.ok Config.pageBytes Config.addrSpace
  simp only [Bool.and_eq_true, decide_eq_true_iff, alignedTo_iff, Bool.or_eq_true, Bool.not_eq_true',
    ← Bool.not_eq_true, imp_iff_not_or, and_assoc]

theorem parseWindow_of_port {data : List Byte} {p : WindowPort}
    (h : portOf ((byteAt data 6).extractLsb' 0 2) = some p) :
    parseWindow data = if (rawWindow data p).ok then some (rawWindow data p) else none := by
  unfold parseWindow
  rw [readWindow_eq, h]
  rfl

theorem parseWindow_eq_none_iff (data : List Byte) :
    parseWindow data = none ↔
      field data 13 3 = 0 ∨ 1048576 < field data 13 3 ∨
      field data 0 5 % 4096 ≠ 0 ∨ field data 8 5 % 4096 ≠ 0 ∨
      2 ^ 40 < field data 0 5 + field data 13 3 * 4096 ∨
      2 ^ 40 < field data 8 5 + field data 13 3 * 4096 ∨
      (byteAt data 6).toNat % 4 = 3 ∨
      ((byteAt data 6).getLsbD 4 = true ∧ (byteAt data 6).toNat % 4 ≠ 1) := by
  rcases portOf_cases data with ⟨hc, hp⟩ | ⟨hc, p, hp, -, hprim, -⟩
  · refine iff_of_true ?_ (by simp only [portCode] at hc; simp [hc])
    unfold parseWindow
    rw [readWindow_eq, hp]
    rfl
  · rw [parseWindow_of_port hp, ite_eq_right_iff, window_ok_iff]
    unfold portCode at hc hprim
    simp only [rawWindow, addrField_toNat, hprim, reduceCtorEq, imp_false]
    by_cases hw : (byteAt data 6).getLsbD 4 = true
    · simp only [hw, true_and, forall_const]
      omega
    · simp only [hw, Bool.false_eq_true, false_and, false_implies, and_true, or_false]
      omega

/-- A good descriptor has the fields of 12.3, its port being the one that its code names. -/
theorem parseWindow_some {data : List Byte} {w : Window} (h : parseWindow data = some w) :
    ∃ p, w = rawWindow data p ∧ (p = .hole ↔ portCode data = 0) ∧ (p = .primary ↔ portCode data = 1) ∧
      (p = .aux ↔ portCode data = 2) := by
  rcases portOf_cases data with ⟨-, hp⟩ | ⟨-, p, hp, hports⟩
  · unfold parseWindow at h
    rw [readWindow_eq, hp] at h
    exact absurd h (by simp)
  · rw [parseWindow_of_port hp] at h
    split at h
    · exact ⟨p, (Option.some.inj h).symm, hports⟩
    · exact absurd h (by simp)

/-! ### The window list (R9, R21, R138) -/

theorem headerLoaded_of_count {data : List Byte} (h : field data 0 1 ≠ 0) (s : State) (i : Slot)
    (sw : SwitchRec) (l : Loaded) (a : Addr) (c : ListCursor) :
    headerLoaded s i sw l a c data =
      if 32 < s.stagedCount i + field data 0 1 then failSwitch s i .listTooLong
      else readDescriptor s i sw { header := c.header, count := field data 0 1, index := 0 } := by
  unfold headerLoaded Config.listLimit
  dsimp only
  rw [if_neg h]

theorem descriptorLoaded_of_full {data : List Byte} {w : Window} (hw : parseWindow data = some w)
    {s : State} (h : ∀ k : Fin 256, s.cache[k] ≠ .free) (i : Slot) (sw : SwitchRec)
    (c : ListCursor) : descriptorLoaded s i sw c data = failSwitch s i .cacheFull := by
  unfold descriptorLoaded State.stage
  rw [hw, lowestFree_none h]

/-- A good descriptor takes the lowest FREE entry, and the next read of the list follows (R21, R138). -/
theorem descriptorLoaded_of_room {data : List Byte} {w : Window} (hw : parseWindow data = some w)
    {s t : State} {i : Slot} {k : Fin 256} (hk : s.cache[k] = .free)
    (hf : ∀ j : Fin 256, j < k → s.cache[j] ≠ .free)
    (ht : t = { s with cache := s.cache.set k (.staged i (s.stagedCount i) w) }) (sw : SwitchRec)
    (c : ListCursor) :
    descriptorLoaded s i sw c data =
      if c.index + 1 < c.count then readDescriptor t i sw { c with index := c.index + 1 }
      else readHeader t i sw (c.header.toNat + 8 + 16 * c.count) := by
  unfold descriptorLoaded State.stage
  rw [hw, lowestFree_some hk hf, ht]

/-- Settles O27: the descriptor's checks by its port code and fields, and each settled read of the list by
what its reader finds. -/
theorem windowListIsReadRunByRun : Obligations.WindowListIsReadRunByRun := by
  refine ⟨parseWindow_eq_none_iff, fun data w hw => ?fields,
    fun s id i a data st sw l t c ht hs hst hl hta hc hd hn => ?header,
    fun s id i a data st sw c ht hs hst hc hd => ?descriptor⟩
  case fields =>
    obtain ⟨p, rfl, hhole, hprim, haux⟩ := parseWindow_some hw
    obtain ⟨hread, hreadNever⟩ := thresholdOf_eq (byteAt data 5) 0 (code := (byteAt data 5).toNat % 8)
      (by simp)
    obtain ⟨hwrite, hwriteNever⟩ := thresholdOf_eq (byteAt data 5) 4
      (code := (byteAt data 5).toNat / 16 % 8) (by norm_num)
    exact ⟨rfl, rfl, rfl, hhole, hprim, haux, rfl, rfl, rfl, hread, hreadNever, hwrite, hwriteNever⟩
  case header =>
    have hok : slotOpOk (s.tableSettled id .free 0) i sw .runHeaderRead data =
        headerLoaded (s.tableSettled id .free 0) i sw l t c data := by
      unfold slotOpOk
      rw [hl, hta, hc]
    have hstate : ((s.tableSettled id .free 0).slot i).state = .loading ∨
        ((s.tableSettled id .free 0).slot i).state = .binding := by
      rw [tableSettled_slot, hs.state]; exact hst
    have hcount : (s.tableSettled id .free 0).stagedCount i = s.stagedCount i := rfl
    rw [exec_read_ok ht hs (inStage_of_loading hst (by simp)) hd, hok, headerLoaded_of_count hn, hcount]
    refine ⟨fun hlong => ?_, fun hfits hcross => ?_, fun hfits hpage hlt => ?_⟩
    · rw [if_pos hlong, hs.fails id .free 0 (by simp)]
    · rw [if_neg (by omega), conclude_readDescriptor_crosses (t := s.tableSettled id .free 0) hs.takes
        (by simpa using hcross)]
    · rw [if_neg (by omega), conclude_readDescriptor hstate (by simpa using hpage) (by simpa using hlt)]
      rfl
  case descriptor =>
    have hok : slotOpOk (s.tableSettled id .free 0) i sw .descriptorRead data =
        descriptorLoaded (s.tableSettled id .free 0) i sw c data := by
      unfold slotOpOk
      rw [hc]
    have hstate : (s.slot i).state = .loading ∨ (s.slot i).state = .binding := by
      rw [hs.state]; exact hst
    rw [exec_read_ok ht hs (inStage_of_loading hst (by simp)) hd, hok]
    refine ⟨fun hbad => ?_, fun w hw => ⟨fun hfull => ?_, fun k hk hf => ?_⟩⟩
    · have hfail : descriptorLoaded (s.tableSettled id .free 0) i sw c data =
          failSwitch (s.tableSettled id .free 0) i .windowBad := by
        unfold descriptorLoaded
        rw [hbad]
      rw [hfail, hs.fails id .free 0 (by simp)]
    · rw [descriptorLoaded_of_full (s := s.tableSettled id .free 0) hw hfull,
        hs.fails id .free 0 (by simp)]
    · obtain ⟨t, hstaged⟩ : ∃ t : State, t =
          { s.tableSettled id .free 0 with
            cache := s.cache.set k (.staged i (s.stagedCount i) w) } := ⟨_, rfl⟩
      have hload : (t.slot i).state = .loading ∨ (t.slot i).state = .binding := by
        rw [hstaged]; exact hstate
      have htakes : t.root ≠ none ∨ (t.slot i).pendingForce = none := by
        rw [hstaged]; exact hs.takes
      rw [descriptorLoaded_of_room (s := s.tableSettled id .free 0) hw hk hf hstaged]
      refine ⟨fun hmore hpage hlt => ?_, fun hmore hcross => ?_, fun hlast hlt => ?_⟩
      · rw [if_pos hmore, conclude_readDescriptor hload hpage hlt, hstaged]
        rfl
      · rw [if_pos hmore, conclude_readDescriptor_crosses htakes hcross, hstaged]
      · rw [if_neg (by omega), conclude_readHeader hload, tableAddr_of_lt hlt, hstaged]
        rfl

/-! ### Commits (R107, R109, R115, R140, R141) -/

/-- The settlement of the run header of count 0 commits the switch. -/
theorem exec_commits {s : State} {id : IssueId} {i : Slot} {h : Addr} {data : List Byte}
    {st : SlotState} {sw : SwitchRec} {l : Loaded} {a : Addr} {c : ListCursor}
    (ht : TableIssued s id (readOp i .runHeaderRead h 8)) (hs : Switching s i st sw)
    (hst : st = .loading ∨ st = .binding) (hl : sw.loaded = some l) (ha : sw.target = some a)
    (hc : sw.cursor = some c) (hd : data.length = 8) (hn : field data 0 1 = 0) :
    exec (.responseArrival .primary id .ok data) s = .next
      (State.afterCommit
        { s.tableSettled id .free 0 with
          cache := s.cacheCommitted i, map := mapAfter s.map i sw (s.slot i).stack.length } i
        { s.slot i with
          binding := if sw.kind = .reload then (s.slot i).binding else some (s.newBinding sw l a)
          stack := stackAfter (s.slot i) sw, held := false } sw a l).movesOn.latchNotice := by
  have hok : slotOpOk (s.tableSettled id .free 0) i sw .runHeaderRead data =
      commit (s.tableSettled id .free 0) i sw l a := by
    unfold slotOpOk headerLoaded
    rw [hl, ha, hc]
    dsimp only
    rw [if_pos hn]
  rw [exec_read_ok ht hs (inStage_of_loading hst (by simp)) hd, hok,
    conclude_commit (s := s.tableSettled id .free 0) hs.takes hl ha]
  rfl

/-- The entries that stay are those that are not the slot's ACTIVE one. -/
theorem filter_active_eq (m : List MapEntry) (i : Slot) :
    (m.filter fun e => !e.isActive i) =
      m.filter fun e => !(decide (e.slot = i) && decide (e.role = .active)) := rfl

/-- Settles O28: the commit of the model, by the kind of the switch. -/
theorem commitReplacesTheBindingAtOnce : Obligations.CommitReplacesTheBindingAtOnce := by
  intro s u id i h data st sw l a c root level b nb ht hs hst hl ha hc hroot hd hn hnb hu
  subst hu
  have hstage : st = .loading ∨ st = .binding := by rw [hst]; split <;> simp
  rw [exec_commits ht hs hstage hl ha hc hd hn]
  refine ⟨fun hk htr hlv hb => ?push, fun hk htr hlv => ?drop, fun hk => ?reload, fun hk hlv => ?rebind⟩
  case push =>
    have hnew := newBinding_eq hroot hnb (sw := sw)
      (by simp [SwitchRec.newLevel, hk, SwitchKind.rebinds, hlv])
    have hstack : stackAfter (s.slot i) sw =
        { record := b.record, level := b.level } :: (s.slot i).stack := by
      unfold stackAfter; simp [hk, htr, hb]
    have hmap : mapAfter s.map i sw (s.slot i).stack.length =
        (s.map.map (MapEntry.stackAt i ((s.slot i).stack.length + 1))).map (MapEntry.activate i) := by
      unfold mapAfter; simp [hk, htr]
    rw [hnew, hstack, hmap, map_push, if_neg (by simp [hk])]
  case drop =>
    have hnew := newBinding_eq hroot hnb (sw := sw)
      (by simp [SwitchRec.newLevel, hk, SwitchKind.rebinds, hlv])
    have hstack : stackAfter (s.slot i) sw = (s.slot i).stack := by unfold stackAfter; simp [hk, htr]
    have hmap : mapAfter s.map i sw (s.slot i).stack.length =
        (s.map.filter fun e => !e.isActive i).map (MapEntry.activate i) := by
      unfold mapAfter; simp [hk, htr]
    rw [hnew, hstack, hmap, activate_eq, filter_active_eq, if_neg (by simp [hk])]
  case reload =>
    have hstack : stackAfter (s.slot i) sw = (s.slot i).stack := by unfold stackAfter; simp [hk]
    have hmap : mapAfter s.map i sw (s.slot i).stack.length = s.map := by unfold mapAfter; simp [hk]
    rw [hstack, hmap, if_pos hk]
    rfl
  case rebind =>
    have hrebinds : sw.kind.rebinds = true := by rcases hk with hk | hk <;> rw [hk] <;> rfl
    have hnew := newBinding_eq hroot hnb (sw := sw) (by simp [SwitchRec.newLevel, hrebinds, hlv]; rfl)
    have hstack : stackAfter (s.slot i) sw = (s.slot i).stack := by
      unfold stackAfter; rcases hk with hk | hk <;> simp [hk]
    have hmap : mapAfter s.map i sw (s.slot i).stack.length = s.map.map (MapEntry.activate i) := by
      unfold mapAfter; rcases hk with hk | hk <;> simp [hk]
    rw [hnew, hstack, hmap, activate_eq, if_neg (by rcases hk with hk | hk <;> simp [hk])]

/-- Settles O29: the commit of a RETURN goes to the top entry of the stack. -/
theorem returnPopsTheStack : Obligations.ReturnPopsTheStack := by
  intro s id i h data sw l c root top rest nb ht hs hk hl ha hlv hc hroot hstk hd hn hnb
  have hnew := newBinding_eq hroot hnb (sw := sw)
    (by simp [SwitchRec.newLevel, hk, SwitchKind.rebinds, hlv])
  have hstack : stackAfter (s.slot i) sw = rest := by unfold stackAfter; simp [hk, hstk]
  have hmap : mapAfter s.map i sw (s.slot i).stack.length =
      (s.map.filter fun e => !e.isActive i).map (MapEntry.unstack i (rest.length + 1)) := by
    unfold mapAfter; simp [hk, hstk]
  rw [exec_commits ht hs (Or.inl rfl) hl ha hc hd hn, hnew, hstack, hmap, filter_active_eq,
    if_neg (by simp [hk])]
  rfl

end Sys2Proof.Machine
end

section
/-! PROOFS. The end of a mailbox request's drain: the watch outcome, a request that is dropped, and the
resolution by the kind of the switch. -/

namespace Sys2Proof.Machine

/-! ### A captured request's slot record -/

/-- A state whose slot holds another switch record, and is else as it was. -/
theorem setSlotState_of_setSlot {u : State} {i : Slot} {r : SlotRecord} {x : Option SwitchRec}
    (hr : r = { u.slot i with switch := x }) (st : SlotState) :
    (u.setSlot i r).setSlotState i st =
      u.setSlot i { u.slot i with state := st, switch := x } := by
  unfold State.setSlotState
  rw [State.slot_setSlot, State.setSlot_setSlot, hr]

/-- The way on of a captured request whose write is OK (R130, R133). -/
theorem afterDraining_of_ok {s : State} {i : Slot} {sw : SwitchRec} (ho : sw.origin = .mailbox)
    (hw : sw.watch = some .ok) : afterDraining s i sw = resolve s i sw := by
  unfold afterDraining
  rw [ho, hw]

theorem afterDraining_of_failed {s : State} {i : Slot} {sw : SwitchRec} (ho : sw.origin = .mailbox)
    (hw : sw.watch = some .failed) : afterDraining s i sw = dropMailbox s i sw := by
  unfold afterDraining
  rw [ho, hw]

/-- A request that is dropped: its record is logged and its slot comes to rest in ACTIVE (R121, R122). -/
theorem conclude_dropMailbox {u : State} {i : Slot} {r : SlotRecord} {sw : SwitchRec}
    (hr : r = { u.slot i with switch := r.switch })
    (h : u.root ≠ none ∨ (u.slot i).pendingForce = none) :
    conclude (dropMailbox (u.setSlot i r) i sw) i =
      State.comesToRest { u with log := u.log.join (switchFault i r sw .tableError) } i
        { r with state := .active, switch := none } := by
  have hrest : dropMailbox (u.setSlot i r) i sw =
      State.restBare { u with log := u.log.join (switchFault i r sw .tableError) } i
        { r with state := .active, switch := none } := by
    unfold dropMailbox State.restBare
    rw [failureFault_eq, State.slot_setSlot]
    exact congrArg (comeToRest · i) (State.setSlot_setSlot
      { u with log := u.log.join (switchFault i r sw .tableError) } i r _)
  rw [hrest]
  refine conclude_restBare ?_ rfl (Or.inl rfl)
  have hforce : r.pendingForce = (u.slot i).pendingForce := by rw [hr]
  rw [hforce]
  exact h

/-! ### The resolution by kind (R102, R106, R117, R133) -/

section Resolution

variable {u : State} {i : Slot} {r : SlotRecord} {sw : SwitchRec}

theorem conclude_resolve_call (hr : r = { u.slot i with switch := some sw })
    (h : u.root ≠ none ∨ (u.slot i).pendingForce = none) (hk : sw.kind = .call) {c : RootCopy}
    {g : GateRef} (hroot : u.root = some c) (hg : sw.gate = some g) :
    conclude (resolve (u.setSlot i r) i sw) i =
      u.callOpenedBy State.comesToRest i (u.slot i) sw c g := by
  have hstep : resolve (u.setSlot i r) i sw =
      resolveCall ((u.setSlot i r).setSlotState i .resolving) i c g := by
    have hroot' : (u.setSlot i r).root = some c := hroot
    unfold resolve
    rw [hk, hroot', hg]
  rw [hstep, resolveCall_by (sw := sw) (by rw [State.slot_setSlot, hr]),
    conclude_callOpenedBy (by rw [State.slot_setSlot, hr]; exact h), State.slot_setSlot, hr]
  exact callOpenedBy_setSlot overwrites_comesToRest u (u.slot i) _ (u.slot i).state (some sw) sw c g

theorem conclude_resolve_fails (hr : r = { u.slot i with switch := some sw })
    (h : u.root ≠ none ∨ (u.slot i).pendingForce = none) {c : ResultCode} (hc : c ≠ .done)
    (hstep : resolve (u.setSlot i r) i sw =
      failSwitch ((u.setSlot i r).setSlotState i .resolving) i c) :
    conclude (resolve (u.setSlot i r) i sw) i = u.switchFailed i sw c := by
  rw [hstep, setSlotState_of_setSlot hr]
  exact conclude_failSwitch_of h rfl hc

theorem conclude_resolve_to (hr : r = { u.slot i with switch := some sw })
    (h : u.root ≠ none ∨ (u.slot i).pendingForce = none) {b : Binding}
    (hb : (u.slot i).binding = some b) {a : Addr} {l : Level}
    (hstep : resolve (u.setSlot i r) i sw =
      resolved ((u.setSlot i r).setSlotState i .resolving) i sw a l false) :
    conclude (resolve (u.setSlot i r) i sw) i = u.resolvedTo i sw b a l false := by
  rw [hstep, setSlotState_of_setSlot hr, conclude_resolved (b := b), resolvedTo_setSlot]
  · rw [State.slot_setSlot]; exact h
  · rw [State.slot_setSlot]; exact hb

end Resolution

theorem resolve_of_emptyStack {s : State} {i : Slot} {sw : SwitchRec} (hk : sw.kind = .ret)
    (hs : (s.slot i).stack = []) :
    resolve s i sw = failSwitch (s.setSlotState i .resolving) i .stackEmpty := by
  unfold resolve
  rw [hk, hs]

theorem resolve_of_stack {s : State} {i : Slot} {sw : SwitchRec} (hk : sw.kind = .ret)
    {top : StackEntry} {below : List StackEntry} (hs : (s.slot i).stack = top :: below) :
    resolve s i sw = resolved (s.setSlotState i .resolving) i sw top.record top.level false := by
  unfold resolve
  rw [hk, hs]

theorem resolve_of_reload {s : State} {i : Slot} {sw : SwitchRec} (hk : sw.kind = .reload)
    {b : Binding} (hb : (s.slot i).binding = some b) :
    resolve s i sw = resolved (s.setSlotState i .resolving) i sw b.record b.level false := by
  unfold resolve
  rw [hk, hb]

theorem resolve_of_undefined {s : State} {i : Slot} {sw : SwitchRec} {code : Byte}
    (hk : sw.kind = .undefined code) :
    resolve s i sw = failSwitch (s.setSlotState i .resolving) i .form := by
  unfold resolve
  rw [hk]

/-! ### The settlement of a granule of the draining slot (R72, R120, R121) -/

/-- The settlement sets the watch outcome, and with granules of the slot left nothing else happens. -/
theorem exec_mailbox_waits {s u : State} {c : Instr} {e : TrackerEntry} {rest : List TrackerEntry}
    {st : RespStatus} {sw sw' : SwitchRec} (h : GranuleSettles s c e rest st u)
    (hs : Switching s e.slot .draining sw) (ho : sw.origin = .mailbox)
    (hsw : sw' = { sw with
      watch := if e.watched = true then some (if st = .ok then .ok else .failed) else sw.watch }) :
    exec c s = .next
      (State.movesOn (conclude (endDraining
        (u.setSlot e.slot { s.slot e.slot with switch := some sw' }) e.slot) e.slot)).latchNotice := by
  obtain ⟨-, hdev, -, -, hroot, -⟩ := h.parts
  have hslot := h.slot e.slot
  have hreport : reportWatch u e st =
      u.setSlot e.slot { s.slot e.slot with switch := some sw' } := by
    rw [reportWatch_of_mailbox st (by rw [hslot]; exact hs.switch) ho, hslot, hsw]
  rw [exec_of_granuleSettles h, hreport, afterGranule_of_drained]
  · rfl
  · show u.root ≠ none ∨ u.device ≠ .starting
    rw [hroot, hdev]
    exact hs.moves
  · rw [State.slot_setSlot]
    exact hs.state

/-- Settles O24: the slot record takes the watch outcome, and at the last granule the drain ends by it. -/
theorem settledMailboxWriteDecidesTheSwitch : Obligations.SettledMailboxWriteDecidesTheSwitch := by
  intro s u c e rest st sw sw' h hs ho hsw
  obtain ⟨htracker, hdev, -, htfu, hroot, -⟩ := h.parts
  have hslot := h.slot e.slot
  have hr : ({ s.slot e.slot with switch := some sw' } : SlotRecord) =
      { u.slot e.slot with switch := some sw' } := by rw [hslot]
  have htakes : u.root ≠ none ∨ (u.slot e.slot).pendingForce = none := by
    rw [hroot, hslot]; exact hs.takes
  have ho' : sw'.origin = .mailbox := by rw [hsw]; exact ho
  have hkind : sw'.kind = sw.kind := by rw [hsw]
  have hgate : sw'.gate = sw.gate := by rw [hsw]
  rw [exec_mailbox_waits h hs ho hsw]
  have hdone : (∀ x ∈ rest, x.slot ≠ e.slot) →
      endDraining (u.setSlot e.slot { s.slot e.slot with switch := some sw' }) e.slot =
        afterDraining (u.setSlot e.slot { s.slot e.slot with switch := some sw' }) e.slot sw' :=
    fun hx => endDraining_done (by show ∀ x ∈ u.tracker, _; rw [htracker]; exact hx)
      (by rw [State.slot_setSlot]; exact hs.state) (by rw [State.slot_setSlot])
  refine ⟨fun hx hforce => ?waits, fun hx hw => ?dropped, fun hx hw =>
    ⟨fun r g hrt hk hg => ⟨fun hlt hdir => ?directory, fun hle => ?range⟩, fun hk hst => ?empty,
      fun b top below hk hst hb => ?top, fun b hk hb => ?reload, fun code hk => ?undefined⟩⟩
  case waits =>
    rw [endDraining_waits (by show ∃ x ∈ u.tracker, _; rw [htracker]; exact hx), conclude_same]
    · rcases hforce with hf | hf
      · exact takeForce_of_none (by rw [State.slot_setSlot]; exact hf)
      · exact takeForce_idle (by show u.device ≠ _; rw [hdev]; exact hf)
    · rw [State.slot_setSlot]
      simp [hs.state]
  case dropped =>
    rw [hdone hx, afterDraining_of_failed ho' hw, conclude_dropMailbox (by rw [hslot]) htakes]
    have hfault : switchFault e.slot { s.slot e.slot with switch := some sw' } sw' .tableError =
        switchFault e.slot (s.slot e.slot) sw .tableError := by
      unfold switchFault
      rw [hsw]
    rw [hfault]
  case directory =>
    rw [hdone hx, afterDraining_of_ok ho' hw,
      conclude_resolve_call hr htakes (hkind.trans hk) (hroot.trans hrt) (hgate.trans hg)]
    unfold State.callOpenedBy
    rw [if_neg (Nat.not_le.mpr hlt), tableAddr_of_lt (by omega), htfu, hslot]
  case range =>
    rw [hdone hx, afterDraining_of_ok ho' hw,
      conclude_resolve_call hr htakes (hkind.trans hk) (hroot.trans hrt) (hgate.trans hg)]
    unfold State.callOpenedBy
    rw [if_pos hle]
    rfl
  case empty =>
    rw [hdone hx, afterDraining_of_ok ho' hw,
      conclude_resolve_fails hr htakes (by simp)
        (resolve_of_emptyStack (hkind.trans hk) (by rw [State.slot_setSlot]; exact hst))]
  case top =>
    rw [hdone hx, afterDraining_of_ok ho' hw,
      conclude_resolve_to hr htakes (by rw [hslot]; exact hb)
        (resolve_of_stack (hkind.trans hk) (by rw [State.slot_setSlot]; exact hst))]
  case reload =>
    rw [hdone hx, afterDraining_of_ok ho' hw,
      conclude_resolve_to hr htakes (by rw [hslot]; exact hb)
        (resolve_of_reload (hkind.trans hk) (by rw [State.slot_setSlot]; exact hb))]
  case undefined =>
    rw [hdone hx, afterDraining_of_ok ho' hw,
      conclude_resolve_fails hr htakes (by simp) (resolve_of_undefined (hkind.trans hk))]

end Sys2Proof.Machine
end

section
/-! PROOFS. The start: the root record read and its checks, the entry to RUNNING and the boot bindings. -/

namespace Sys2Proof.Machine

/-! ### START (R163) -/

/-- The root record read of a state, at the address the registers give. -/
theorem rootRead_rootAddr (s : State) :
    rootRead s.rootAddr =
      { owner := none, what := .rootRead, op := .read
        target := BitVec.ofNat 40
          ((s.mgmt.rootHigh.toNat * 2 ^ 32 + s.mgmt.rootLow.toNat) / 256 * 256)
        length := 160, data := [] } := by
  unfold rootRead
  rw [rootAddr_eq]

theorem queueRootRead_of_empty {s : State} (hd : s.device = .starting) (hr : s.root = none)
    (ht : s.tracker = []) : queueRootRead s = s.queueTable (rootRead s.rootAddr) := by
  unfold queueRootRead
  rw [if_pos ⟨hd, hr, ht⟩]

theorem queueRootRead_of_waiting {s : State} (ht : s.tracker ≠ []) : queueRootRead s = s := by
  unfold queueRootRead
  rw [if_neg fun h => ht h.2.2]

theorem startCommand_of_empty {s : State} (hd : s.device = .direct) (hh : s.resetHeld = false)
    (hr : s.root = none) (ht : s.tracker = []) :
    startCommand s = (.ok, State.queueTable
      { s with device := .starting, startResult := .none } (rootRead s.rootAddr)) := by
  unfold startCommand queueRootRead
  rw [if_pos ⟨hd, hh⟩, if_pos ⟨rfl, hr, ht⟩]
  rfl

theorem startCommand_of_waiting {s : State} (hd : s.device = .direct) (hh : s.resetHeld = false)
    (ht : s.tracker ≠ []) :
    startCommand s = (.ok, { s with device := .starting, startResult := .none }) := by
  unfold startCommand queueRootRead
  rw [if_pos ⟨hd, hh⟩, if_neg fun h => ht h.2.2]

theorem startCommand_refused {s : State} (h : s.device ≠ .direct ∨ s.resetHeld = true) :
    startCommand s = (.refused, s) := by
  unfold startCommand
  rw [if_neg]
  rintro ⟨hd, hh⟩
  rcases h with h | h
  · exact h hd
  · simp [hh] at h

/-- Settles O32: START and every settled granule look for the empty tracker, and the root record read is
then queued. -/
theorem startIsTakenInDirectOnly : Obligations.StartIsTakenInDirectOnly := by
  refine ⟨fun s hf hd hh hr => ?_, fun s u c e rest st h hw hdr hd hr => ?_, fun s hf h => ?_⟩
  · rw [exec_start hf]
    refine ⟨fun ht => ?_, fun ht => ?_⟩
    · rw [startCommand_of_empty hd hh hr ht, rootRead_rootAddr]
      rfl
    · rw [startCommand_of_waiting hd hh ht]
      rfl
  · obtain ⟨htr, hdev, -, htfu, hroot, hmgmt, -⟩ := h.parts
    have hu : u.device = .starting := hdev.trans hd
    have hur : u.root = none := hroot.trans hr
    rw [exec_of_granuleSettles h, reportWatch_of_plain st hw,
      afterGranule_of_settled (by rw [h.slot]; exact hdr)]
    refine ⟨fun hx => ?_, fun hx => ?_⟩
    · have ha := rootRead_rootAddr u
      rw [hmgmt] at ha
      rw [queueRootRead_of_empty hu hur (htr.trans hx), ha,
        deviceProgress_of_waiting (by exact hu) (by exact hur), ← htfu]
      rfl
    · rw [queueRootRead_of_waiting (by rw [htr]; exact hx), deviceProgress_of_waiting hu hur]
      rfl
  · rw [exec_start hf, startCommand_refused h]
    rfl

/-! ### A root record that fails a check (R164, R165) -/

/-- Neither a start nor a quiescence is under way. -/
theorem movesOn_of_still {s : State} (h1 : s.device ≠ .starting) (h2 : s.device ≠ .quiescing) :
    s.movesOn = s := by
  unfold State.movesOn
  rw [if_neg fun h => h1 h.1, if_neg fun h => h2 h.1]

theorem startFailed_eq (s : State) (c : StartResult) : startFailed s c = s.startFails c := rfl

theorem movesOn_startFails (s : State) (c : StartResult) : (s.startFails c).movesOn = s.startFails c :=
  movesOn_of_still (by simp [State.startFails]) (by simp [State.startFails])

/-- The root record read settled OK with a record that fails a check. -/
theorem exec_root_bad {s : State} {id : IssueId} {o : TableOp} {data : List Byte}
    (ht : TableIssued s id o) (ho : o.owner = none) (hop : o.op = .read)
    (hd : data.length = o.length) (hc : rootCheck data ≠ .done) :
    exec (.responseArrival .primary id .ok data) s =
      .next ((s.tableSettled id .free 0).startFails (rootCheck data)).latchNotice := by
  obtain ⟨time, he⟩ := settle_of_table ht (.response .ok data)
  have hfit : s.fitData data o.length = data := by
    unfold State.fitData
    rw [← hd, List.take_length, Nat.sub_self]
    simp [freeBytes]
  have hsettle : settle s .primary id (.response .ok data) =
      ((s.tableSettled id .free 0).startFails (rootCheck data)).movesOn := by
    rw [he]
    unfold settleTable handOutcome tableOutcome rootSettled
    dsimp only
    rw [releaseTable_eq, deviceProgress_eq]
    simp only [Settlement.idState, Settlement.data, ho, hop, if_true, hd, Nat.sub_self, hfit]
    rw [if_neg hc, startFailed_eq]
  show finish (respond s .primary id .ok data) = _
  rw [respond_of_inUse (p := .primary) ht.inUse, hsettle, movesOn_startFails]
  rfl

theorem directoryBad_iff (data : List Byte) :
    (parseRoot data).directoryBad = true ↔ field data 2 1 = 0 ∨ 64 < field data 2 1 ∨
      2 ^ 40 < field data 8 5 / 8 * 8 + 8 * field data 2 1 := by
  unfold RootCopy.directoryBad parseRoot alignDown
  simp only [Bool.or_eq_true, decide_eq_true_eq, addrField_toNat, Config.addrSpace, or_assoc]

theorem regionBad_iff (data : List Byte) :
    (parseRoot data).regionBad = true ↔ field data 20 4 ≠ 0 ∧
      (field data 24 5 % 4096 ≠ 0 ∨ 2 ^ 40 < field data 24 5 + field data 20 4 * 4096) := by
  have ha : alignedTo (addrField data 24) 4096 = false ↔ field data 24 5 % 4096 ≠ 0 := by
    rw [← Bool.not_eq_true, alignedTo_iff, addrField_toNat]
  unfold RootCopy.regionBad parseRoot
  simp only [Bool.and_eq_true, Bool.or_eq_true, Bool.not_eq_true', decide_eq_true_eq,
    addrField_toNat, Config.addrSpace, Config.pageBytes, ha]

theorem rootCheck_of_tag {data : List Byte} (h : field data 0 2 ≠ 0x52A7) :
    rootCheck data = .rootTag := by
  unfold rootCheck
  rw [if_pos h]

theorem rootCheck_of_directory {data : List Byte} (h : field data 0 2 = 0x52A7)
    (hb : (parseRoot data).directoryBad = true) : rootCheck data = .directoryLength := by
  unfold rootCheck
  rw [if_neg (not_not.mpr h), if_pos hb]

theorem rootCheck_of_region {data : List Byte} (h : field data 0 2 = 0x52A7)
    (hg : ¬(parseRoot data).directoryBad = true) (hb : (parseRoot data).regionBad = true) :
    rootCheck data = .regionBad := by
  unfold rootCheck
  rw [if_neg (not_not.mpr h), if_neg hg, if_pos hb]

/-- Settles O33: the checks of R164 in their order, the start failing in the event of the first that does. -/
theorem failedRootCheckEndsTheStart : Obligations.FailedRootCheckEndsTheStart := by
  refine ⟨fun s id op c ids h ho hl => ?_, fun s id op data ht ho hop hl hd _ => ?_⟩
  · rw [exec_root_fails h ho, hl, startFailed_eq, movesOn_startFails]
  · have key : ∀ code, rootCheck data = code → code ≠ .done →
        exec (.responseArrival .primary id .ok data) s =
          .next ((s.tableSettled id .free 0).startFails code).latchNotice := by
      rintro code rfl hc
      exact exec_root_bad ht ho hop (hd.trans hl.symm) hc
    refine ⟨fun h => key _ (rootCheck_of_tag h) (by simp), fun h hb => ?_,
      fun h h1 h2 h3 h4 hb => ?_⟩
    · exact key _ (rootCheck_of_directory h ((directoryBad_iff data).mpr hb)) (by simp)
    · have hg : ¬(parseRoot data).directoryBad = true := by
        rw [directoryBad_iff]
        omega
      exact key _ (rootCheck_of_region h hg ((regionBad_iff data).mpr ⟨h4, hb⟩)) (by simp)

/-! ### A root record that passes (R166, R167, R169) -/

theorem movesOn_of_started {s : State} (hd : s.device = .starting) (hr : s.root ≠ none)
    (h : ∀ i : Slot, ∀ sw, (s.slot i).switch = some sw → sw.origin ≠ .bind) :
    s.movesOn = s.entersRunning := by
  have hn : ∀ i : Slot, (s.slot i).switch.map (·.origin) ≠ some .bind := by
    intro i hi
    obtain ⟨sw, hsw, ho⟩ := Option.map_eq_some_iff.mp hi
    exact h i sw hsw ho
  unfold State.movesOn
  rw [if_pos ⟨hd, hr, hn⟩]

/-- A slot's boot binding is under way: RUNNING waits. -/
theorem movesOn_of_booting {s : State} (hd : s.device = .starting) {i : Slot} {sw : SwitchRec}
    (hs : (s.slot i).switch = some sw) (ho : sw.origin = .bind) : s.movesOn = s := by
  unfold State.movesOn
  rw [if_neg, if_neg fun h => by simp [hd] at h]
  rintro ⟨-, -, h⟩
  exact h i (by rw [hs, Option.map_some, ho])

/-- The root copy made, the free order of its boot bindings spent (R166, log entry 4). -/
def State.rootMade (s : State) (r : RootCopy) : State :=
  { s with root := some r, freeCount := s.freeCount + 1 }

/-- A root copy without a boot binding for an enabled slot. -/
theorem startPassed_none {s : State} {r : RootCopy}
    (h : ∀ i : Slot, s.mgmt.slotEnable.getLsbD i.val = true → r.boot[i] = 0) :
    startPassed s r = s.rootMade r := by
  have hs : ({ s with root := some r } : State).bootSlots = [] := by
    rw [List.eq_nil_iff_forall_not_mem]
    intro i hi
    obtain ⟨h1, h2⟩ := (mem_bootSlots (by rfl) i).mp hi
    exact h2 (h i h1)
  unfold startPassed
  dsimp only
  rw [hs]
  rfl

theorem entersRunning_queues (s : State) (i : Slot) :
    s.entersRunning.queues i =
      if (s.slot i).state = .unbound then { regular := [], priority := [] } else s.queues i := by
  unfold State.entersRunning State.queues
  simp

/-- A boot binding of a record as read is 0 where its field is. -/
theorem boot_eq_zero_iff {data : List Byte} {c : RootCopy} (hc : RootCopyOf data c) (i : Slot) :
    c.boot[i] = 0 ↔ field data (32 + 8 * i.val) 5 = 0 := by
  have hlt : field data (32 + 8 * i.val) 5 < 2 ^ 40 := by
    have := (addrField data (32 + 8 * i.val)).isLt
    rwa [addrField_toNat] at this
  rw [hc.boot i]
  constructor
  · intro h
    have := congrArg BitVec.toNat h
    rwa [BitVec.toNat_ofNat, Nat.mod_eq_of_lt hlt] at this
  · intro h
    rw [h]
    rfl

/-- Settles O34: no slot takes part, so the root copy and the entry to RUNNING fall in one event. -/
theorem passedRootWithoutBootBindingsEntersRunning :
    Obligations.PassedRootWithoutBootBindingsEntersRunning := by
  intro s id op data ht ho hop hl hd hdev hp hb hsw
  have hc := rootCopyOf_parseRoot data
  have hnone : startPassed (s.tableSettled id .free 0) (parseRoot data) =
      (s.tableSettled id .free 0).rootMade (parseRoot data) :=
    startPassed_none fun i hi => (boot_eq_zero_iff hc i).mpr (hb i hi)
  refine ⟨_, parseRoot data, exec_root_passes ht ho hop (hd.trans hl.symm) hp, ?_⟩
  rw [hnone, movesOn_of_started (s := (s.tableSettled id .free 0).rootMade (parseRoot data)) hdev
    (Option.some_ne_none _) hsw]
  refine ⟨rfl, rfl, rfl, rfl, hc, rfl, rfl, ?_, rfl, rfl, fun i => ⟨rfl, ?_⟩, rfl, rfl, rfl, rfl⟩
  · exact decide_eq_true_iff.trans (by rw [← hc.epochLength]; rfl)
  · exact entersRunning_queues ((s.tableSettled id .free 0).rootMade (parseRoot data)) i

end Sys2Proof.Machine
end

section
/-! PROOFS. A REBIND or BIND opened at its boot record, and the boot bindings of the start. -/

namespace Sys2Proof.Machine

/-! ### A REBIND or BIND that opens its load or fails (R135, R136, R144) -/

/-- The state in which a REBIND or BIND opens its load: the slot's windows and map entries are gone. -/
def State.unboundAt (s : State) (i : Slot) : State :=
  { s with cache := s.withoutCommitted i, map := s.withoutBound i }

/-- A boot record that cannot be read, and the code that its switch fails with. -/
def BootFails (t : State) (a : Addr) (code : ResultCode) : Prop :=
  (a = 0 ∧ code = .notBound) ∨ (a.toNat % 64 ≠ 0 ∧ code = .recordBad) ∨
    (a ≠ 0 ∧ a.toNat % 64 = 0 ∧ t.recordBusy a ∧ code = .recordBusy)

section
variable (rest : State → Slot → SlotRecord → State) {s : State} {i : Slot} (r : SlotRecord)
  {sw : SwitchRec} {c : RootCopy}

/-- An aligned boot record that is free is claimed and read. -/
theorem startOpenedBy_of_free (hk : sw.kind = .rebind ∨ sw.kind = .bind) (h0 : c.boot[i] ≠ 0)
    (ha : c.boot[i].toNat % 64 = 0) (hb : ¬(s.unboundAt i).recordBusy c.boot[i]) :
    s.startOpenedBy rest i r sw c =
      State.setSlot
        { s.unboundAt i with
          map := s.withoutBound i ++ [{ record := c.boot[i], slot := i, role := .reserved }]
          tfu := { s.tfu with queue := s.tfu.queue ++ [readOp i .recordRead c.boot[i] 64] } } i
        { r with
          state := if sw.kind = .bind then .binding else .loading
          binding := none, stack := [], switch := some { sw with target := some c.boot[i] } } := by
  have hclaims : sw.kind = .call ∨ sw.kind = .rebind ∨ sw.kind = .bind := Or.inr hk
  unfold State.startOpenedBy State.loadOpenedBy
  dsimp only
  rw [if_neg h0, if_neg (not_not.mpr ha), if_neg fun h => hb h.2, if_pos hclaims]
  rfl

/-- Any other boot record fails the switch. -/
theorem startOpenedBy_of_fails (hk : sw.kind = .rebind ∨ sw.kind = .bind) {code : ResultCode}
    (h : BootFails (s.unboundAt i) c.boot[i] code) :
    ∃ a, s.startOpenedBy rest i r sw c = (s.unboundAt i).switchFailedBy rest i
      { r with binding := none, stack := [] } { sw with target := a } code := by
  have hclaims : sw.kind = .call ∨ sw.kind = .rebind ∨ sw.kind = .bind := Or.inr hk
  unfold State.startOpenedBy State.loadOpenedBy
  dsimp only
  rcases h with ⟨h0, rfl⟩ | ⟨ha, rfl⟩ | ⟨h0, ha, hb, rfl⟩
  · rw [if_pos h0]
    exact ⟨sw.target, rfl⟩
  · have h0 : c.boot[i] ≠ 0 := fun h => ha (by rw [h]; rfl)
    rw [if_neg h0, if_pos ha]
    exact ⟨_, rfl⟩
  · rw [if_neg h0, if_neg (not_not.mpr ha), if_pos ⟨hclaims, hb⟩]
    exact ⟨_, rfl⟩

theorem endsIn_of_rebinds (hk : sw.kind = .rebind ∨ sw.kind = .bind) {code : ResultCode}
    (hc : code ≠ .done) : ({ sw with result := some code } : SwitchRec).endsIn = .unbound := by
  unfold SwitchRec.endsIn
  rw [if_pos ⟨fun h => hc (Option.some.inj h), hk⟩]

/-- A BIND that fails has no result to write. -/
theorem switchFailedBy_of_bind (ho : sw.origin = .bind ∨ sw.origin = .enable)
    (hp : sw.preempted = none) (hk : sw.kind = .rebind ∨ sw.kind = .bind) {code : ResultCode}
    (hc : code ≠ .done) :
    s.switchFailedBy rest i r sw code =
      rest { s with
        cache := s.withoutStaged i, map := s.withoutReserved i, log := s.log.join (bindFault i code) } i
        { r with state := .unbound, switch := none } := by
  have hfault : switchFault i r sw code = bindFault i code := by
    unfold switchFault bindFault
    rcases ho with h | h <;> rw [h]
  have hend := endsIn_of_rebinds hk hc
  unfold State.switchFailedBy State.resultOrEndBy State.switchEndsBy
  rw [hfault, hend, hp]
  rcases ho with h | h <;> rw [h]

/-- A force REBIND that fails, with no mailbox preempted, has its code in the last force result. -/
theorem switchFailedBy_of_force (ho : sw.origin = .force) (hp : sw.preempted = none)
    (code : ResultCode) :
    s.switchFailedBy rest i r sw code =
      rest { s with
        cache := s.withoutStaged i, map := s.withoutReserved i
        log := s.log.join
          { kind := .switchFault, slot := i, context := r.binding.map (·.record), request := none
            target := none, detail := some (.result code) }
        mgmt := { s.mgmt with sticky := s.mgmt.sticky ||| 2#3 } } i
        { r with
          state := ({ sw with result := some code } : SwitchRec).endsIn, switch := none
          lastForce := some code } := by
  unfold State.switchFailedBy State.resultOrEndBy State.switchEndsBy switchFault
  rw [hp, ho]

end

/-- A slot that ends UNBOUND with nothing requested or pending has its queues answered. -/
theorem comesToRest_of_unbound {r : SlotRecord} (hd : r.disableReq = false)
    (hf : r.pendingForce = none) (hu : r.state = .unbound) (s : State) (i : Slot) :
    s.comesToRest i r = (s.setSlot i r).queueAnswered i := by
  have hp : s.pendingTaken i r = s.setSlot i r := by
    unfold State.pendingTaken
    rw [hf]
  unfold State.comesToRest
  rw [if_neg (by simp [hd]), if_pos (Or.inl hu), hp]

theorem queueAnswered_of_guarding {s : State} (h : Guarding s) (i : Slot) :
    s.queueAnswered i = State.setQueues
      { s with
        completions := s.completions ++ (s.queued i).map unsupported
        log := ((s.queued i).map unboundFault).foldl FaultLog.join s.log } i
      { regular := [], priority := [] } := by
  unfold State.queueAnswered
  rw [if_pos h]

theorem queueAnswered_of_not_guarding {s : State} (h : ¬Guarding s) (i : Slot) :
    s.queueAnswered i = s := by
  unfold State.queueAnswered
  rw [if_neg h]

/-- A failed BIND leaves its slot UNBOUND, its queues as they are in a device that does not guard yet. -/
theorem switchFailedBy_of_booting {s : State} {i : Slot} {r : SlotRecord} {sw : SwitchRec}
    (hdev : s.device = .starting) (ho : sw.origin = .bind) (hk : sw.kind = .bind)
    (hp : sw.preempted = none) (hd : r.disableReq = false) (hf : r.pendingForce = none)
    {code : ResultCode} (hc : code ≠ .done) :
    s.switchFailedBy State.comesToRest i r sw code =
      State.setSlot { s with
        cache := s.withoutStaged i, map := s.withoutReserved i, log := s.log.join (bindFault i code) } i
        { r with state := .unbound, switch := none } := by
  rw [switchFailedBy_of_bind _ r (Or.inl ho) hp (Or.inr hk) hc,
    comesToRest_of_unbound (by exact hd) (by exact hf) (by rfl)]
  refine queueAnswered_of_not_guarding ?_ i
  show ¬(s.device = .running ∨ s.device = .quiescing ∨ s.device = .quiesced)
  rw [hdev]
  simp

/-! ### The boot bindings (R167) -/

/-- The switch record of a boot binding. -/
def bootRecord : SwitchRec := { forceRecord .bind none with origin := .bind }

theorem startPassed_fold {s : State} (hd : s.device = .starting) (r : RootCopy) :
    ∃ l : List Slot, l.Nodup ∧
      (∀ i : Slot, i ∈ l ↔ s.mgmt.slotEnable.getLsbD i.val = true ∧ r.boot[i] ≠ 0) ∧
      startPassed s r = l.foldl (fun t i => t.startOpened i bootRecord r) (s.rootMade r) := by
  have hperm := freeOrder_perm s.freeCount (({ s with root := some r } : State).bootSlots)
  refine ⟨_, hperm.nodup_iff.mpr ((List.nodup_finRange 16).filter _), fun i => ?_, ?_⟩
  · rw [hperm.mem_iff]
    exact mem_bootSlots (by rfl) i
  · exact foldl_beginBoot (s := s.rootMade r) _ hd (by rfl)

/-- One boot binding, of an enabled slot. -/
theorem startPassed_boot {s : State} (hd : s.device = .starting) {r : RootCopy} {i : Slot}
    (hb : ∀ j : Slot, s.mgmt.slotEnable.getLsbD j.val = true → (r.boot[j] ≠ 0 ↔ j = i))
    (he : s.mgmt.slotEnable.getLsbD i.val = true) :
    startPassed s r = (s.rootMade r).startOpened i bootRecord r :=
  (startPassed_one hb he).trans (beginBoot_eq (s := s.rootMade r) hd (by rfl) i)

/-- A failed boot binding, the last under way, has RUNNING entered in its event. -/
theorem movesOn_of_bootFailed {s u : State} {i : Slot} {r : SlotRecord}
    (hu : u = s.setSlot i { r with state := .unbound, switch := none }) (hd : s.device = .starting)
    (hr : s.root ≠ none)
    (hj : ∀ j, j ≠ i → ∀ x, (s.slot j).switch = some x → x.origin ≠ .bind) :
    u.movesOn = u.entersRunning := by
  subst hu
  refine movesOn_of_started hd hr fun j x hx => ?_
  by_cases h : j = i
  · subst h
    rw [State.slot_setSlot] at hx
    simp at hx
  · rw [State.slot_setSlot_ne _ _ h] at hx
    exact hj j h x hx

/-- The states of the slots where one of them became UNBOUND. -/
theorem state_unbound_iff {s : State} {i : Slot} {r : SlotRecord} (hr : r.state = .unbound) (j : Slot) :
    ((s.setSlot i r).slot j).state = .unbound ↔ (s.slot j).state = .unbound ∨ j = i := by
  by_cases h : j = i
  · subst h
    rw [State.slot_setSlot]
    simp [hr]
  · rw [State.slot_setSlot_ne _ _ h]
    simp [h]

/-- A slot whose boot binding failed with TABLE_ERROR, before RUNNING is entered. -/
def State.bootDropped (s : State) (i : Slot) : State :=
  State.setSlot { s with
    cache := s.withoutStaged i, map := s.withoutReserved i
    log := s.log.join (bindFault i .tableError) } i
    { s.slot i with state := .unbound, switch := none }

/-- The entry to RUNNING at the end of the last boot binding. -/
theorem bootDropped_entersRunning (s : State) (i : Slot) {r : RootCopy} (hroot : s.root = some r) :
    let t := (s.bootDropped i).entersRunning
    t.device = .running ∧ t.startResult = .done ∧ t.mgmt.sticky = s.mgmt.sticky ||| 1#3 ∧
      t.timer.now = s.timer.now ∧ t.timer.count = 0 ∧
      (t.timer.running = true ↔ r.epochLength ≠ 0) ∧
      t.slot i = { s.slot i with state := .unbound, switch := none } ∧
      (∀ j, j ≠ i → t.slot j = s.slot j) ∧ t.cache = s.withoutStaged i ∧
      t.map = s.withoutReserved i ∧
      (∀ j : Slot, t.queues j =
        if (s.slot j).state = .unbound ∨ j = i then { regular := [], priority := [] }
        else s.queues j) ∧
      t.completions = s.completions ++ (List.finRange 16).flatMap (fun j =>
        if (s.slot j).state = .unbound ∨ j = i then (s.queued j).map unsupported else []) ∧
      t.log = ((List.finRange 16).flatMap fun j =>
        if (s.slot j).state = .unbound ∨ j = i then (s.queued j).map unboundFault else []).foldl
          FaultLog.join (s.log.join (bindFault i .tableError)) := by
  have hiff : ∀ j, ((s.bootDropped i).slot j).state = .unbound ↔ (s.slot j).state = .unbound ∨ j = i :=
    state_unbound_iff rfl
  have hepoch : (s.bootDropped i).epochLength = r.epochLength := by
    show State.epochLength _ = _
    unfold State.epochLength
    rw [show (s.bootDropped i).root = some r from hroot]
  refine ⟨rfl, rfl, rfl, rfl, rfl, ?_, State.slot_setSlot _ i _,
    fun j hj => State.slot_setSlot_ne _ _ hj, rfl, rfl, fun j => ?_, ?_, ?_⟩
  · exact decide_eq_true_iff.trans (by rw [hepoch])
  · rw [entersRunning_queues]
    exact if_congr (hiff j) rfl rfl
  · unfold State.entersRunning
    simp only [hiff]
    rfl
  · unfold State.entersRunning
    simp only [hiff]
    rfl

/-- Settles O35: each boot binding opens at its record or fails, and RUNNING waits for those that open. -/
theorem bootBindingClaimsItsRecord : Obligations.BootBindingClaimsItsRecord := by
  refine ⟨fun s id op data i ht ho hop hl hd hdev hp hb he => ?one,
    fun s id op data ht ho hop hl hd hdev hp => ?several,
    fun s id op c ids i sw r hf ho hw hdev hroot hst hsw horg hk hpre hdis hpend hothers => ?failed⟩
  case one =>
    have hc := rootCopyOf_parseRoot data
    have hboot : ∀ j : Slot, s.mgmt.slotEnable.getLsbD j.val = true →
        ((parseRoot data).boot[j] ≠ 0 ↔ j = i) := fun j hj => by
      rw [← hb j hj, ne_eq, boot_eq_zero_iff hc]
    have hne : (parseRoot data).boot[i] ≠ 0 := (hboot i he).mpr rfl
    have hexec := exec_root_passes ht ho hop (hd.trans hl.symm) hp
    rw [startPassed_boot (s := s.tableSettled id .free 0) hdev hboot he] at hexec
    refine ⟨parseRoot data, hc, fun t htt => ?_⟩
    have hunbound : t = ((s.tableSettled id .free 0).rootMade (parseRoot data)).unboundAt i := htt
    clear htt
    refine ⟨fun ha hfree => ?claimed, fun code hcode hdis hpend hothers => ?unbound⟩
    case claimed =>
      subst hunbound
      rw [hexec]
      unfold State.startOpened
      rw [startOpenedBy_of_free State.comesToRest _ (Or.inr rfl) hne ha hfree,
        movesOn_of_booting (i := i) (by exact hdev) (by rw [State.slot_setSlot]) (by rfl)]
      rfl
    case unbound =>
      have hfails : BootFails t (parseRoot data).boot[i] code := by
        rcases hcode with h | ⟨ha, hbusy, hx⟩
        · exact Or.inr (Or.inl h)
        · exact Or.inr (Or.inr ⟨hne, ha, hbusy, hx⟩)
      have hcode' : code ≠ .done := by
        rcases hcode with ⟨-, rfl⟩ | ⟨-, -, rfl⟩ <;> simp
      subst hunbound
      obtain ⟨a, hopen⟩ := startOpenedBy_of_fails State.comesToRest
        (((s.tableSettled id .free 0).rootMade (parseRoot data)).slot i) (sw := bootRecord)
        (Or.inr rfl) hfails
      rw [hexec]
      unfold State.startOpened
      rw [hopen, switchFailedBy_of_booting (by exact hdev) (by rfl) (by rfl) (by rfl) (by exact hdis)
        (by exact hpend) hcode', movesOn_of_bootFailed rfl (by exact hdev)
        (Option.some_ne_none (parseRoot data)) (by exact hothers)]
      rfl
  case several =>
    obtain ⟨l, hn, hl', hfold⟩ := startPassed_fold (s := s.tableSettled id .free 0) hdev (parseRoot data)
    refine ⟨parseRoot data, l, rootCopyOf_parseRoot data, hn, hl', ?_⟩
    rw [exec_root_passes ht ho hop (hd.trans hl.symm) hp, hfold]
    rfl
  case failed =>
    obtain ⟨hstage, hfail⟩ := slotOpFailed_of_read (w := op.what) (st := .binding)
      (Or.inr ⟨Or.inr rfl, hw⟩)
    obtain ⟨timedOut, -, hexec⟩ := exec_fails_of hf ho hsw (by rw [hst]; exact hstage)
    have hfailed : conclude (slotOpFailed (s.tableSettled id ids op.length) i sw op.what timedOut) i =
        (s.tableSettled id ids op.length).bootDropped i := by
      rw [hfail, conclude_failSwitch (s := s.tableSettled id ids op.length) (Or.inr hpend) hsw (by simp)]
      exact switchFailedBy_of_booting (s := s.tableSettled id ids op.length) hdev horg hk hpre hdis hpend
        (by simp)
    have hrooted : s.root ≠ none := by
      rw [hroot]
      simp
    have hmoves : ((s.tableSettled id ids op.length).bootDropped i).movesOn =
        ((s.tableSettled id ids op.length).bootDropped i).entersRunning :=
      movesOn_of_bootFailed rfl hdev hrooted hothers
    rw [hfailed, hmoves] at hexec
    exact ⟨_, hexec, bootDropped_entersRunning (s.tableSettled id ids op.length) i hroot⟩

end Sys2Proof.Machine
end

section
/-! PROOFS. The epoch timer, its expiries on the way to a response limit, and quiescence. -/

namespace Sys2Proof.Machine

/-! ### Expiries on the way to a response limit (R82, R95, R96) -/

theorem takeEpochExpiry_of_running {s : State} (hr : s.timer.running = true) :
    takeEpochExpiry s = epochExpires (s.later (s.epochLength - s.timer.count)) := by
  unfold takeEpochExpiry
  rw [if_pos hr]

theorem takeEpochExpiry_of_stopped {s : State} (hr : s.timer.running = false) :
    takeEpochExpiry s = s := by
  unfold takeEpochExpiry
  rw [if_neg (by simp [hr])]

/-- The time that passes moves the timebase, and leaves the operations in flight and the limit. -/
theorem passTime_parts (s : State) (d : Nat) :
    (passTime s d).timer.now = s.timer.now + d ∧ (passTime s d).tracker = s.tracker ∧
      (passTime s d).tfu = s.tfu ∧ (passTime s d).mgmt = s.mgmt := by
  unfold passTime
  dsimp only
  split
  · split <;> exact ⟨rfl, rfl, rfl, rfl⟩
  · exact ⟨rfl, rfl, rfl, rfl⟩

/-- An operation whose limit is reached in a state with the same operations settles there. -/
theorem exec_expiry_of_reached {s u : State} {p : MemPort} {id : IssueId} {f : Flight} {d : Nat}
    (hf : InFlight s p id f) (hl : s.mgmt.responseLimit ≠ 0)
    (hd : s.timer.now + d = f.time + s.mgmt.responseLimit.toNat)
    (hnow : u.timer.now = s.timer.now + d) (htr : u.tracker = s.tracker) (htfu : u.tfu = s.tfu)
    (hm : u.mgmt = s.mgmt) (hc : u.timer.running = true → u.timer.count < u.epochLength) :
    exec (.responseLimitExpiry p id) u = finish (settle u p id .timeout) := by
  have hflight : u.flightOf p id = some f := (flightOf_congr htr htfu).trans (flightOf_inFlight hf)
  have hexp : expire u p id = settle u p id .timeout :=
    expire_of_reached hflight (by rw [hm]; exact hl) (by rw [hm, hnow, hd]) hc
  show finish (expire u p id) = _
  rw [hexp]

/-- The expiry is that of the state to which the time passed. -/
theorem exec_expiry_after {s : State} {p : MemPort} {id : IssueId} {f : Flight} {d : Nat}
    (hf : InFlight s p id f) (hl : s.mgmt.responseLimit ≠ 0)
    (hd : s.timer.now + d = f.time + s.mgmt.responseLimit.toNat) (he : s.epochFallsAt d = false)
    (hc : (passTime s d).timer.running = true →
      (passTime s d).timer.count < (passTime s d).epochLength) :
    exec (.responseLimitExpiry p id) s = exec (.responseLimitExpiry p id) (passTime s d) := by
  obtain ⟨hnow, htr, htfu, hm⟩ := passTime_parts s d
  rw [exec_expiry_of_reached hf hl hd hnow htr htfu hm hc]
  show finish (expire s p id) = _
  rw [expire_after (flightOf_inFlight hf) hl hd he]

theorem epochFallsAt_iff (s : State) (d : Nat) :
    s.epochFallsAt d = true ↔ s.timer.running = true ∧ 0 < d ∧ s.epochLength ≤ s.timer.count + d ∧
      (s.timer.count + d) % s.epochLength = 0 := by
  unfold State.epochFallsAt
  simp only [Bool.and_eq_true, decide_eq_true_eq, and_assoc]

/-- The state just before an instant at which an expiry of the epoch timer falls with a response limit, with
the free order of the two spent. -/
def State.beforeEpoch (s : State) (d : Nat) : State :=
  { s with
    timer := { s.timer with now := s.timer.now + d, count := s.epochLength - 1 }
    slots := if s.timer.count + d = s.epochLength then s.slots else s.slots.map SlotRecord.refilled
    freeCount := s.freeCount + 1 }

theorem passUntil_eq {s : State} {d : Nat} (hr : s.timer.running = true)
    (hc : s.timer.count < s.epochLength) (hle : s.epochLength ≤ s.timer.count + d)
    (hmod : (s.timer.count + d) % s.epochLength = 0) :
    (passUntil s d).spendFree 1 = s.beforeEpoch d := by
  have hnow : s.timer.now + (d - 1) + 1 = s.timer.now + d := by omega
  unfold passUntil State.beforeEpoch
  by_cases hone : s.timer.count + d = s.epochLength
  · have hcount : s.timer.count + (d - 1) = s.epochLength - 1 := by omega
    rw [passTime_short hr (by omega), if_pos hone, hcount, ← hnow]
    rfl
  · have hcount : (s.timer.count + (d - 1)) % s.epochLength = s.epochLength - 1 := by
      obtain ⟨k, hk⟩ := Nat.dvd_of_mod_eq_zero hmod
      obtain ⟨j, rfl⟩ : ∃ j, k = j + 1 := ⟨k - 1, by
        have : k ≠ 0 := by
          rintro rfl
          omega
        omega⟩
      have hsum : s.timer.count + (d - 1) = (s.epochLength - 1) + s.epochLength * j := by
        rw [Nat.mul_add] at hk
        omega
      rw [hsum, Nat.add_mul_mod_self_left, Nat.mod_eq_of_lt (by omega)]
    rw [passTime_long hr (by omega), if_neg hone, hcount, ← hnow]
    rfl

/-- Settles O36: the time to the limit passes with its expiries, and the last falls before or after the
settlement. -/
theorem epochExpiryRefillsEveryBinding : Obligations.EpochExpiryRefillsEveryBinding := by
  refine ⟨fun s hr => ⟨s.timer.now + (s.epochLength - s.timer.count), ?_⟩, fun s hr => ?_,
    fun s p id f d hf hl hd => ⟨fun hr => ?stopped, fun hr hc => ?short, fun hr hc hlt hmod => ?long,
      fun hr hc hle hmod t ht => ?falls⟩⟩
  · show finish (takeEpochExpiry s) = _
    rw [takeEpochExpiry_of_running hr, ← hr]
    rfl
  · show finish (takeEpochExpiry s) = _
    rw [takeEpochExpiry_of_stopped hr]
    rfl
  case stopped =>
    have he : s.epochFallsAt d = false := by
      rw [← Bool.not_eq_true, epochFallsAt_iff]
      simp [hr]
    have hpass := passTime_of_stopped d hr
    rw [exec_expiry_after hf hl hd he (by rw [hpass]; exact fun h => by simp [State.later, hr] at h), hpass]
    rfl
  case short =>
    have he : s.epochFallsAt d = false := by
      rw [← Bool.not_eq_true, epochFallsAt_iff]
      omega
    have hpass := passTime_short hr hc
    rw [exec_expiry_after hf hl hd he (by rw [hpass]; exact fun _ => hc), hpass]
    rfl
  case long =>
    have he : s.epochFallsAt d = false := by
      rw [← Bool.not_eq_true, epochFallsAt_iff]
      exact fun h => hmod h.2.2.2
    have hpass := passTime_long hr hlt.le
    rw [exec_expiry_after hf hl hd he (by rw [hpass]; exact fun _ => Nat.mod_lt _ (by omega)), hpass]
    rfl
  case falls =>
    have he : s.epochFallsAt d = true := (epochFallsAt_iff s d).mpr ⟨hr, by omega, hle, hmod⟩
    have htb : t = s.beforeEpoch d := ht
    subst htb
    clear ht
    have hpos : 0 < s.epochLength := by omega
    rcases expire_at_epoch (flightOf_inFlight hf) hl hd he with h | h <;>
      rw [passUntil_eq hr hc hle hmod] at h
    · refine Or.inr ⟨_, exec_expiry_of_reached hf hl hd rfl rfl rfl rfl
        fun _ => Nat.sub_lt hpos Nat.one_pos, ?_⟩
      show finish (expire s p id) = _
      rw [h]
      rfl
    · refine Or.inl ?_
      show finish (expire s p id) = exec (.responseLimitExpiry p id) (epochExpires (s.beforeEpoch d))
      rw [h, exec_expiry_of_reached (u := epochExpires (s.beforeEpoch d)) hf hl hd rfl rfl rfl rfl
        fun _ => hpos]

/-! ### Quiescence (R158) -/

/-- What QUIESCED waits for, the device in QUIESCING: the tracker empty, the TFU idle, no switch record. -/
def State.AtRest (s : State) : Prop :=
  s.tracker = [] ∧ s.tfu.queue = [] ∧ s.tfu.inFlight = none ∧ ∀ i : Slot, (s.slot i).switch = none

/-- The state that entered QUIESCED. -/
def State.quiescedNow (s : State) : State :=
  { s with device := .quiesced, mgmt := { s.mgmt with sticky := s.mgmt.sticky ||| 4#3 } }

theorem movesOn_of_atRest {s : State} (hd : s.device = .quiescing) (h : s.AtRest) :
    s.movesOn = s.quiescedNow := by
  unfold State.movesOn
  rw [if_neg fun h => by simp [hd] at h, if_pos ⟨hd, h⟩]
  rfl

theorem movesOn_of_busy {s : State} (hd : s.device = .quiescing) (h : ¬s.AtRest) : s.movesOn = s := by
  unfold State.movesOn
  rw [if_neg fun h => by simp [hd] at h, if_neg fun hx => h hx.2]

theorem queueRootRead_of_not_starting {s : State} (h : s.device ≠ .starting) : queueRootRead s = s := by
  unfold queueRootRead
  rw [if_neg fun hx => h hx.1]

theorem quiesceCommand_of_running {s : State} (h : s.device = .running) :
    quiesceCommand s = (.ok, State.movesOn { s with device := .quiescing }) := by
  unfold quiesceCommand
  rw [if_pos h, deviceProgress_eq]

theorem quiesceCommand_refused {s : State} (h : s.device ≠ .running) :
    quiesceCommand s = (.refused, s) := by
  unfold quiesceCommand
  rw [if_neg h]

/-- The end of a mailbox's switch that is neither a REBIND nor a BIND, in a device that takes no force. -/
theorem conclude_leaveSwitch_mailbox {s : State} {i : Slot} {sw : SwitchRec} (ho : sw.origin = .mailbox)
    (h1 : sw.kind ≠ .rebind) (h2 : sw.kind ≠ .bind) (hd : (s.slot i).disableReq = false)
    (hdev : s.device ≠ .running) :
    conclude (leaveSwitch s i sw) i = s.setSlot i { s.slot i with state := .active, switch := none } := by
  have hend : sw.endsIn = .active := by
    unfold SwitchRec.endsIn
    rw [if_neg fun h => h.2.elim h1 h2]
  have hleave : leaveSwitch s i sw =
      s.setSlot i { s.slot i with state := .active, switch := none } := by
    rw [leaveSwitch_by]
    unfold State.switchEndsBy State.restBare comeToRest
    rw [ho, hend]
    simp [hd]
  rw [hleave]
  exact conclude_same (takeForce_idle (by exact hdev)) (by rw [State.slot_setSlot]; simp)

/-- Settles O37: QUIESCE, a settled granule and a settled result write each look for the rest of the
device. -/
theorem quiesceIsTakenInRunningOnly : Obligations.QuiesceIsTakenInRunningOnly := by
  refine ⟨fun s hf hd => ⟨fun h => ?_, fun h => ?_⟩, fun s hf hd => ?_,
    fun s u c e rest st hs hw hdr hd => ?granule,
    fun s id i op c ids failed sw m hws ho hwhat hd hst hsw hdis horg hm hpre hk1 hk2 htr hq hothers =>
      ?write⟩
  · rw [exec_quiesce hf, quiesceCommand_of_running hd,
      movesOn_of_atRest (s := { s with device := .quiescing }) rfl h]
    rfl
  · rw [exec_quiesce hf, quiesceCommand_of_running hd,
      movesOn_of_busy (s := { s with device := .quiescing }) rfl h]
    rfl
  · rw [exec_quiesce hf, quiesceCommand_refused hd]
    rfl
  case granule =>
    obtain ⟨htr, hdev, -, htfu, -, hmgmt, -⟩ := hs.parts
    have hud : u.device = .quiescing := hdev.trans hd
    have hrest : u.AtRest ↔ rest = [] ∧ s.tfu.queue = [] ∧ s.tfu.inFlight = none ∧
        ∀ i : Slot, (s.slot i).switch = none := by
      unfold State.AtRest
      simp only [htr, htfu, hs.slot]
    rw [exec_of_granuleSettles hs, reportWatch_of_plain st hw,
      afterGranule_of_settled (by rw [hs.slot]; exact hdr),
      queueRootRead_of_not_starting (by rw [hud]; simp), deviceProgress_eq, ← hmgmt]
    refine ⟨fun h => ?_, fun h => ?_⟩
    · rw [movesOn_of_atRest hud (hrest.mpr h)]
      rfl
    · rw [movesOn_of_busy hud (mt hrest.mp h)]
      rfl
  case write =>
    obtain ⟨t, ht⟩ : ∃ t : State, t = { s.tableSettled id ids op.length with
        log := if failed then s.log.join (closeFault s i) else s.log } := ⟨_, rfl⟩
    have hslot : ∀ j, t.slot j = s.slot j := fun j => by
      rw [ht]
      rfl
    have hleave : (if failed = true then
          slotOpFailed (s.tableSettled id ids op.length) i sw .resultWrite false
        else slotOpOk (s.tableSettled id ids op.length) i sw .resultWrite []) = leaveSwitch t i sw := by
      rw [ht]
      cases failed <;> rfl
    have hdev : t.device = .quiescing := by rw [ht]; exact hd
    rw [exec_write_settles hws ho hsw (by rw [hst, hwhat]; rfl) (by rw [hwhat]; simp), hwhat, hleave,
      conclude_leaveSwitch_mailbox horg hk1 hk2 (by rw [hslot]; exact hdis) (by rw [hdev]; simp),
      movesOn_of_atRest (by exact hdev)
        ⟨by rw [ht]; exact htr, by rw [ht]; exact hq, by rw [ht]; rfl, ?_⟩]
    · rw [hslot, ht]
      rfl
    · intro j
      by_cases hj : j = i
      · subst hj
        rw [State.slot_setSlot]
      · rw [State.slot_setSlot_ne _ _ hj, hslot]
        exact hothers j hj

end Sys2Proof.Machine
end

section
/-! PROOFS. RESUME: the pending forces taken one after another, each in a state that holds its slot as it
was. -/

namespace Sys2Proof.Machine

/-! ### What events of other slots leave of a slot -/

/-- The parts of a state that a slot's force reads, the same in another state. -/
structure SameFor (i : Slot) (s t : State) : Prop where
  device : t.device = s.device
  root : t.root = s.root
  tracker : t.tracker = s.tracker
  slot : t.slot i = s.slot i
  queues : t.queues i = s.queues i

theorem SameFor.trans {i : Slot} {s t u : State} (a : SameFor i s t) (b : SameFor i t u) :
    SameFor i s u :=
  ⟨b.device.trans a.device, b.root.trans a.root, b.tracker.trans a.tracker, b.slot.trans a.slot,
    b.queues.trans a.queues⟩

theorem SameFor.of_engine {i j : Slot} {s t : State} (h : EngineFrame j s t) (hij : i ≠ j) :
    SameFor i s t :=
  ⟨h.device, h.root, h.tracker, h.otherSlots i hij, h.otherQueues i hij⟩

/-- Forces of other slots, taken one after another. -/
theorem sameFor_foldl_takeForce {i : Slot} (l : List Slot) (hi : i ∉ l) (s : State) :
    SameFor i s (l.foldl takeForce s) := by
  induction l generalizing s with
  | nil => exact ⟨rfl, rfl, rfl, rfl, rfl⟩
  | cons j l ih =>
    obtain ⟨hij, hl⟩ := List.ne_and_not_mem_of_not_mem_cons hi
    exact (SameFor.of_engine (takeForce_frame s j) hij).trans (ih hl (takeForce s j))

theorem foldl_takeForce_parts (l : List Slot) (s : State) :
    (l.foldl takeForce s).device = s.device ∧ (l.foldl takeForce s).timer = s.timer := by
  induction l generalizing s with
  | nil => exact ⟨rfl, rfl⟩
  | cons j l ih =>
    have h := takeForce_frame s j
    exact ⟨(ih _).1.trans h.device, (ih _).2.trans h.timer⟩

/-- A slot's force is taken among others in a state that holds its slot as it was, and stays as it comes. -/
theorem foldl_takeForce_at {l : List Slot} (hn : l.Nodup) {i : Slot} (hi : i ∈ l) (s : State) :
    ∃ u, SameFor i s u ∧ SameFor i (takeForce u i) (l.foldl takeForce s) := by
  obtain ⟨l1, l2, rfl⟩ := List.append_of_mem hi
  obtain ⟨-, hn2, hdisj⟩ := List.nodup_append.mp hn
  have h1 : i ∉ l1 := fun h => hdisj i h i (List.mem_cons_self ..) rfl
  refine ⟨l1.foldl takeForce s, sameFor_foldl_takeForce l1 h1 s, ?_⟩
  rw [List.foldl_append, List.foldl_cons]
  exact sameFor_foldl_takeForce l2 (List.nodup_cons.mp hn2).1 _

/-! ### RESUME (R159) -/

/-- The device back in RUNNING, the free order of its pending forces spent. -/
def State.resumed (s : State) : State := { s with device := .running, freeCount := s.freeCount + 1 }

/-- The order in which a RESUME takes the pending forces. -/
def State.forceOrder (s : State) : List Slot := freeOrder s.freeCount s.forcedSlots

theorem forceOrder_nodup (s : State) : s.forceOrder.Nodup :=
  (freeOrder_perm s.freeCount s.forcedSlots).nodup_iff.mpr (forcedSlots_nodup s)

theorem mem_forceOrder {s : State} {i : Slot} :
    i ∈ s.forceOrder ↔ ∃ f, (s.slot i).pendingForce = some f ∧ MayTake (s.slot i) f :=
  mem_freeOrder.trans mem_forcedSlots

theorem resumeCommand_of_quiesced {s : State} (h : s.device = .quiescing ∨ s.device = .quiesced) :
    resumeCommand s =
      (.ok, s.forceOrder.foldl answerUnboundSlot (s.forceOrder.foldl takeForce s.resumed)) := by
  unfold resumeCommand
  rw [if_pos h]
  rfl

theorem resumeCommand_refused {s : State} (h : ¬(s.device = .quiescing ∨ s.device = .quiesced)) :
    resumeCommand s = (.refused, s) := by
  unfold resumeCommand
  rw [if_neg h]

/-- The answers of the queues leave the slots, the device and the timer. -/
theorem foldl_answerUnboundSlot_parts {l : List Slot} (hn : l.Nodup) (s : State) :
    (l.foldl answerUnboundSlot s).device = s.device ∧ (l.foldl answerUnboundSlot s).timer = s.timer ∧
      ∀ i, (l.foldl answerUnboundSlot s).slot i = s.slot i := by
  rw [(foldl_answerUnboundSlot l hn s).1]
  exact ⟨rfl, rfl, fun _ => rfl⟩

/-! ### A force taken (R150, R151) -/

/-- A force is taken while granules of its slot are in flight. -/
theorem takeForce_of_granules {s : State} {i : Slot} {f : PendingForce} (hr : s.device = .running)
    (hp : (s.slot i).pendingForce = some f) (hm : MayTake (s.slot i) f)
    (hx : ∃ x ∈ s.tracker, x.slot = i) :
    takeForce s i = s.setSlot i { s.slot i with
      pendingForce := none, state := .draining, switch := some ((s.slot i).forceTaken f) } := by
  rw [takeForce_eq hr hp hm]
  exact endDraining_waits hx

/-- A force is taken in a slot at rest. -/
theorem takeForce_of_rest {s : State} {i : Slot} {f : PendingForce} (hrt : s.root ≠ none)
    (hr : s.device = .running) (hp : (s.slot i).pendingForce = some f) (hm : MayTake (s.slot i) f)
    (hw : (s.slot i).switch = none) (hd : (s.slot i).disableReq = false) :
    takeForce s i = s.forceStarts i { s.slot i with pendingForce := none } f := by
  have h := takeForce_rests (i := i) hrt hr hp hm hw hd
  rwa [State.setSlot_slot] at h

theorem not_granules {s : State} {i : Slot} (h : ∀ x ∈ s.tracker, x.slot ≠ i) :
    ¬∃ x ∈ s.tracker, x.slot = i := fun ⟨x, hx, hi⟩ => h x hx hi

theorem forceStarts_call {s : State} {i : Slot} {c : RootCopy} (hx : ∀ x ∈ s.tracker, x.slot ≠ i)
    (hc : s.root = some c) (r : SlotRecord) (g : GateRef) :
    s.forceStarts i r (.call g) =
      s.callOpenedBy State.setSlot i r (forceRecord .call (some g)) c g := by
  unfold State.forceStarts
  rw [if_neg (not_granules hx), hc]
  rfl

theorem forceStarts_rebind {s : State} {i : Slot} {c : RootCopy} (hx : ∀ x ∈ s.tracker, x.slot ≠ i)
    (hc : s.root = some c) (r : SlotRecord) :
    s.forceStarts i r .rebind = s.startOpenedBy State.setSlot i r (forceRecord .rebind none) c := by
  unfold State.forceStarts
  rw [if_neg (not_granules hx), hc]
  rfl

/-- A force CALL of a group out of range fails in its event and leaves the slot as it was but for its
result. -/
theorem callOpenedBy_force_of_range (rest : State → Slot → SlotRecord → State) {s : State} {i : Slot}
    {r : SlotRecord} {c : RootCopy} {g : GateRef} (hst : r.state = .active) (hw : r.switch = none)
    (hg : c.dirLength ≤ g.group.toNat) :
    s.callOpenedBy rest i r (forceRecord .call (some g)) c g =
      rest { s with
        cache := s.withoutStaged i, map := s.withoutReserved i
        log := s.log.join
          { kind := .switchFault, slot := i, context := r.binding.map (·.record), request := none
            target := none, detail := some (.result .gateRange) }
        mgmt := { s.mgmt with sticky := s.mgmt.sticky ||| 2#3 } } i
        { r with lastForce := some .gateRange } := by
  have hend : ({ forceRecord .call (some g) with result := some .gateRange } : SwitchRec).endsIn =
      r.state := by
    rw [hst]
    rfl
  unfold State.callOpenedBy
  rw [if_pos hg, switchFailedBy_of_force rest r rfl rfl, hend, ← hw]

theorem callOpenedBy_of_inRange (rest : State → Slot → SlotRecord → State) {s : State} {i : Slot}
    {r : SlotRecord} {sw : SwitchRec} {c : RootCopy} {g : GateRef} (hg : g.group.toNat < c.dirLength) :
    s.callOpenedBy rest i r sw c g = State.setSlot
      { s with tfu := { s.tfu with queue := s.tfu.queue ++
        [readOp i .directoryRead (tableAddr (c.dirAddr.toNat / 8 * 8 + 8 * g.group.toNat)) 8] } } i
      { r with state := .resolving, switch := some sw } := by
  unfold State.callOpenedBy
  rw [if_neg (Nat.not_le.mpr hg)]

/-- A force REBIND that cannot read its boot record leaves its slot UNBOUND with its code. -/
theorem startOpenedBy_force_of_fails (rest : State → Slot → SlotRecord → State) {s : State} {i : Slot}
    (r : SlotRecord) {c : RootCopy} {code : ResultCode} (hc : code ≠ .done)
    (h : BootFails (s.unboundAt i) c.boot[i] code) :
    s.startOpenedBy rest i r (forceRecord .rebind none) c =
      rest { s.unboundAt i with
        cache := (s.unboundAt i).withoutStaged i, map := (s.unboundAt i).withoutReserved i
        log := s.log.join
          { kind := .switchFault, slot := i, context := none, request := none
            target := none, detail := some (.result code) }
        mgmt := { s.mgmt with sticky := s.mgmt.sticky ||| 2#3 } } i
        { r with
          state := .unbound, binding := none, stack := [], switch := none, lastForce := some code } := by
  obtain ⟨a, hopen⟩ := startOpenedBy_of_fails rest r (sw := forceRecord .rebind none) (Or.inl rfl) h
  have hk : ({ forceRecord .rebind none with target := a } : SwitchRec).kind = .rebind ∨
      ({ forceRecord .rebind none with target := a } : SwitchRec).kind = .bind := Or.inl rfl
  rw [hopen, switchFailedBy_of_force rest _ rfl rfl, endsIn_of_rebinds hk hc]
  rfl

/-- A boot record opens or fails. -/
theorem bootFails_or_free (t : State) (a : Addr) :
    (∃ code, code ≠ .done ∧ BootFails t a code ∧ (a ≠ 0 → code = .recordBad ∨ code = .recordBusy)) ∨
      (a ≠ 0 ∧ a.toNat % 64 = 0 ∧ ¬t.recordBusy a) := by
  by_cases h0 : a = 0
  · exact Or.inl ⟨.notBound, by simp, Or.inl ⟨h0, rfl⟩, fun h => absurd h0 h⟩
  · by_cases ha : a.toNat % 64 = 0
    · by_cases hb : t.recordBusy a
      · exact Or.inl ⟨.recordBusy, by simp, Or.inr (Or.inr ⟨h0, ha, hb, rfl⟩), fun _ => Or.inr rfl⟩
      · exact Or.inr ⟨h0, ha, hb⟩
    · exact Or.inl ⟨.recordBad, by simp, Or.inr (Or.inl ⟨ha, rfl⟩), fun _ => Or.inl rfl⟩

/-! ### What a RESUME leaves in each slot -/

/-- A slot whose force is not taken is left alone. -/
theorem resume_leaves {s : State} {i : Slot}
    (h : ∀ f, (s.slot i).pendingForce = some f → ¬MayTake (s.slot i) f) :
    (resumeCommand s).2.slot i = s.slot i ∧ (resumeCommand s).2.queues i = s.queues i := by
  by_cases hq : s.device = .quiescing ∨ s.device = .quiesced
  · have hi : i ∉ s.forceOrder := fun hx => by
      obtain ⟨f, hp, hm⟩ := mem_forceOrder.mp hx
      exact h f hp hm
    have hsame := sameFor_foldl_takeForce s.forceOrder hi s.resumed
    have hn := forceOrder_nodup s
    rw [resumeCommand_of_quiesced hq]
    refine ⟨((foldl_answerUnboundSlot_parts hn _).2.2 i).trans hsame.slot, ?_⟩
    rw [(foldl_answerUnboundSlot _ hn _).2 i, if_neg fun hx => hi hx.1]
    exact hsame.queues
  · rw [resumeCommand_refused hq]
    exact ⟨rfl, rfl⟩

/-- A slot's force is taken in a RUNNING device that holds the slot as it was. -/
theorem resume_takes {s : State} (hq : s.device = .quiescing ∨ s.device = .quiesced) {i : Slot}
    {f : PendingForce} (hp : (s.slot i).pendingForce = some f) (hm : MayTake (s.slot i) f) :
    ∃ u, SameFor i s.resumed u ∧ (resumeCommand s).2.slot i = (takeForce u i).slot i ∧
      (((takeForce u i).slot i).state ≠ .unbound →
        (resumeCommand s).2.queues i = (takeForce u i).queues i) := by
  have hn := forceOrder_nodup s
  obtain ⟨u, hu, hafter⟩ := foldl_takeForce_at hn (mem_forceOrder.mpr ⟨f, hp, hm⟩) s.resumed
  refine ⟨u, hu, ?_, fun hb => ?_⟩ <;> rw [resumeCommand_of_quiesced hq]
  · exact ((foldl_answerUnboundSlot_parts hn _).2.2 i).trans hafter.slot
  · rw [← hafter.slot] at hb
    rw [(foldl_answerUnboundSlot _ hn _).2 i, if_neg fun hx => hb hx.2]
    exact hafter.queues

theorem eq_singleton_of_mem_iff {l : List Slot} (hn : l.Nodup) {i : Slot} (h : ∀ j, j ∈ l ↔ j = i) :
    l = [i] :=
  List.perm_singleton.mp ((List.perm_ext_iff_of_nodup hn (List.nodup_singleton i)).mpr fun j => by
    rw [h, List.mem_singleton])

/-- One force taken: RESUME does to its slot what the FORCE does. -/
theorem resume_one {s : State} {i : Slot} {f : PendingForce}
    (hq : s.device = .quiescing ∨ s.device = .quiesced) (hp : (s.slot i).pendingForce = some f)
    (hm : MayTake (s.slot i) f) (hempty : (s.slot i).state = .unbound → s.queued i = [])
    (hothers : ∀ j, j ≠ i → ∀ g, (s.slot j).pendingForce = some g → ¬MayTake (s.slot j) g) :
    resumeCommand s = (.ok, conclude s.resumed i) := by
  have horder : s.forceOrder = [i] := by
    refine eq_singleton_of_mem_iff (forceOrder_nodup s) fun j => ?_
    rw [mem_forceOrder]
    constructor
    · rintro ⟨g, hg, hmg⟩
      by_contra hj
      exact hothers j hj g hg hmg
    · rintro rfl
      exact ⟨f, hp, hm⟩
  have hanswer : answerUnboundSlot (takeForce s.resumed i) i = conclude s.resumed i := by
    have hguards : (takeForce s.resumed i).device.guards = true := by
      rw [(takeForce_frame s.resumed i).device]
      rfl
    unfold conclude answerUnboundSlot answerIfUnbound
    by_cases hafter : ((takeForce s.resumed i).slot i).state = .unbound
    · rw [if_pos hafter, if_pos ⟨hguards, Or.inr hafter⟩]
    · rw [if_neg hafter]
      split
      next h =>
        have hbefore : (s.slot i).state = .unbound := of_decide_eq_true (h.2.resolve_right hafter)
        have hnone : (takeForce s.resumed i).queued i = [] := by
          have hold := queues_of_queued (hempty hbefore)
          have hnew : (takeForce s.resumed i).queues i = { regular := [], priority := [] } :=
            (takeForce_frame s.resumed i).ownQueues.elim (fun hx => hx.trans hold) id
          unfold State.queued
          rw [hnew]
          rfl
        exact (answerUnboundQueues_of_empty hnone).symm
      next => rfl
  rw [resumeCommand_of_quiesced hq, horder]
  exact congrArg _ hanswer

theorem ne_off_of_mayTake {r : SlotRecord} {f : PendingForce} (h : MayTake r f) :
    r.state ≠ .off ∧ (r.state = .unbound → f = .rebind) := by
  rcases h with h | ⟨h, hf⟩ | ⟨h, -⟩
  · simp [h]
  · exact ⟨by simp [h], fun _ => hf⟩
  · simp [h]

/-- A FORCE of a RUNNING device whose slot has none pending does what follows with it pending. -/
theorem forceCommand_pending {s u : State} {i : Slot} {f : PendingForce} (hr : s.device = .running)
    (hp : (s.slot i).pendingForce = some f) (hm : MayTake (s.slot i) f)
    (hd : (s.slot i).disableReq = false) (hu : u = s.setSlot i { s.slot i with pendingForce := none }) :
    forceCommand i f u = (.ok, conclude s i) := by
  have hslot : u.slot i = { s.slot i with pendingForce := none } := by rw [hu, State.slot_setSlot]
  obtain ⟨hoff, hunbound⟩ := ne_off_of_mayTake hm
  have hback : u.setSlot i { u.slot i with pendingForce := some f } = s := by
    rw [hslot, hu, State.setSlot_setSlot, ← hp]
    exact State.setSlot_slot s i
  rw [forceCommand_accepts (Or.inl (by rw [hu]; exact hr)) (by rw [hslot]) (by rw [hslot]; exact hd)
    (by rw [hslot]; exact hoff) (by rw [hslot]; exact hunbound)]
  unfold acceptForce
  rw [hback]

/-- What a force leaves of its slot, taken in a RUNNING device (R150, R151), the queues as they were. -/
theorem takeForce_call_slot {u : State} {i : Slot} {r : SlotRecord} {c : RootCopy} {g : GateRef}
    (hslot : u.slot i = r) (hu : u.device = .running) (hc : u.root = some c)
    (hx : ∀ x ∈ u.tracker, x.slot ≠ i) (hp : r.pendingForce = some (.call g)) (hst : r.state = .active)
    (hw : r.switch = none) (hd : r.disableReq = false) :
    (takeForce u i).queues i = u.queues i ∧ ((takeForce u i).slot i).state ≠ .unbound ∧
      (g.group.toNat < c.dirLength → (takeForce u i).slot i = { r with
        pendingForce := none, state := .resolving, switch := some (forceRecord .call (some g)) }) ∧
      (c.dirLength ≤ g.group.toNat → (takeForce u i).slot i = { r with
        pendingForce := none, lastForce := some .gateRange }) := by
  subst hslot
  have htake := takeForce_of_rest (by rw [hc]; simp) hu hp (Or.inl hst) hw hd
  rw [htake, forceStarts_call hx hc]
  rcases Nat.lt_or_ge g.group.toNat c.dirLength with hg | hg
  · rw [callOpenedBy_of_inRange _ hg, State.slot_setSlot]
    exact ⟨rfl, by simp, fun _ => rfl, fun h => absurd hg (Nat.not_lt.mpr h)⟩
  · rw [callOpenedBy_force_of_range _ (by exact hst) (by exact hw) hg, State.slot_setSlot]
    exact ⟨rfl, by simp [hst], fun h => absurd h (Nat.not_lt.mpr hg), fun _ => rfl⟩

theorem takeForce_rebind_slot {u : State} {i : Slot} {r : SlotRecord} {c : RootCopy}
    (hslot : u.slot i = r) (hu : u.device = .running) (hc : u.root = some c)
    (hx : ∀ x ∈ u.tracker, x.slot ≠ i) (hp : r.pendingForce = some .rebind)
    (hst : r.state = .active ∨ r.state = .unbound) (hw : r.switch = none) (hd : r.disableReq = false) :
    (c.boot[i] = 0 → (takeForce u i).slot i = { r with
      pendingForce := none, state := .unbound, binding := none, stack := []
      lastForce := some .notBound }) ∧
    (c.boot[i] ≠ 0 →
      (takeForce u i).slot i = { r with
        pendingForce := none, state := .loading, binding := none, stack := []
        switch := some { forceRecord .rebind none with target := some c.boot[i] } } ∨
      ∃ code, (code = .recordBad ∨ code = .recordBusy) ∧ (takeForce u i).slot i = { r with
        pendingForce := none, state := .unbound, binding := none, stack := []
        lastForce := some code }) := by
  subst hslot
  have htake := takeForce_of_rest (by rw [hc]; simp) hu hp (hst.imp id fun h => Or.inl ⟨h, rfl⟩) hw hd
  have hfails : ∀ code, code ≠ .done → BootFails (u.unboundAt i) c.boot[i] code →
      (takeForce u i).slot i = { u.slot i with
        pendingForce := none, state := .unbound, binding := none, stack := []
        lastForce := some code } := by
    intro code hcode h
    rw [htake, forceStarts_rebind hx hc, startOpenedBy_force_of_fails _ _ hcode h, State.slot_setSlot, ← hw]
  refine ⟨fun h0 => hfails _ (by simp) (Or.inl ⟨h0, rfl⟩), fun h0 => ?_⟩
  rcases bootFails_or_free (u.unboundAt i) c.boot[i] with ⟨code, hcode, h, hx'⟩ | ⟨-, ha, hb⟩
  · exact Or.inr ⟨code, hx' h0, hfails code hcode h⟩
  · refine Or.inl ?_
    rw [htake, forceStarts_rebind hx hc, startOpenedBy_of_free _ _ (Or.inl rfl) h0 ha hb,
      State.slot_setSlot]
    rfl

/-- Settles O38: the forces are taken one after another, each in a state that holds its slot as it was, and
the answers that follow leave the slots. -/
theorem resumeTakesThePendingForces : Obligations.ResumeTakesThePendingForces := by
  refine ⟨fun s hf hq => ⟨_, exec_resume hf, ?device, ?timer, ?link, fun i => ⟨fun h => resume_leaves h,
      fun f hp hm => ?taken⟩⟩,
    fun s i f c hf hq hp hm hd hempty hothers hc => ?one, fun s hf h1 h2 => ?refused⟩
  case device =>
    rw [resumeCommand_of_quiesced hq]
    exact (foldl_answerUnboundSlot_parts (forceOrder_nodup s) _).1.trans (foldl_takeForce_parts _ _).1
  case timer =>
    rw [resumeCommand_of_quiesced hq]
    exact (foldl_answerUnboundSlot_parts (forceOrder_nodup s) _).2.1.trans (foldl_takeForce_parts _ _).2
  case link =>
    rw [resumeCommand_of_quiesced hq]
    rfl
  case taken =>
    obtain ⟨u, hu, hslot, hqueues⟩ := resume_takes hq hp hm
    have hdev : u.device = .running := hu.device
    have hi : u.slot i = s.slot i := hu.slot
    have htr : u.tracker = s.tracker := hu.tracker
    refine ⟨fun hx => ?_, fun c g hx hc hfg hst hw hd => ?_, fun c hx hc hfr hst hw hd => ?_⟩
    · have htake := takeForce_of_granules hdev (by rw [hi]; exact hp) (by rw [hi]; exact hm)
        (by rw [htr]; exact hx)
      have hat : (takeForce u i).slot i = { s.slot i with
          pendingForce := none, state := .draining, switch := some ((s.slot i).forceTaken f) } := by
        rw [htake, State.slot_setSlot, hi]
      refine ⟨hslot.trans hat, (hqueues (by rw [hat]; simp)).trans ?_⟩
      rw [htake]
      exact hu.queues
    · subst hfg
      obtain ⟨hkeeps, hbound, hin, hout⟩ := takeForce_call_slot hi hdev (hu.root.trans hc)
        (by rw [htr]; exact hx) hp hst hw hd
      exact ⟨(hqueues hbound).trans (hkeeps.trans hu.queues), fun h => hslot.trans (hin h),
        fun h => hslot.trans (hout h)⟩
    · subst hfr
      obtain ⟨hzero, hboot⟩ := takeForce_rebind_slot hi hdev (hu.root.trans hc)
        (by rw [htr]; exact hx) hp hst hw hd
      refine ⟨fun h => hslot.trans (hzero h), fun h => (hboot h).imp hslot.trans ?_⟩
      rintro ⟨code, hcode, hx'⟩
      exact ⟨code, hcode, hslot.trans hx'⟩
  case one =>
    have hforce : ∀ u, u = s.resumed.setSlot i { s.slot i with pendingForce := none } →
        forceCommand i f u = (.ok, conclude s.resumed i) :=
      fun u hu => forceCommand_pending (s := s.resumed) rfl hp hm hd hu
    rw [exec_resume hf, resume_one hq hp hm hempty hothers]
    rcases hc with ⟨g, rfl, rfl⟩ | ⟨rfl, rfl⟩
    · rw [exec_forceCall (by exact hf)]
      exact congrArg answered (hforce _ rfl).symm
    · rw [exec_forceRebind (by exact hf)]
      exact congrArg answered (hforce _ rfl).symm
  case refused =>
    rw [exec_resume hf, resumeCommand_refused (not_or.mpr ⟨h1, h2⟩)]
    rfl

end Sys2Proof.Machine
end

section
/-! PROOFS. The device reset and the power-on reset. -/

namespace Sys2Proof.Machine

/-! ### Device reset (R45, R170) -/

/-- After a reset no sticky bit is set and the log is empty, so the notice line is not asserted. -/
theorem noticeLine_of_quiet {s : State} (hs : s.mgmt.sticky = 0) (hl : s.log.records = [])
    (ht : 1 ≤ s.mgmt.threshold) : s.noticeLine = false := by
  rw [← Bool.not_eq_true, noticeLine_iff, hs, hl]
  rintro (⟨k, -, hk, -⟩ | ⟨-, hk⟩)
  · simp at hk
  · exact absurd (ht.trans hk) (by simp)

theorem deviceReset_slot (s : State) (i : Slot) :
    (deviceReset s).slot i = SlotRecord.fresh (resetSlotState s.mgmt.slotEnable i.val) := by
  simp [deviceReset, State.slot]

theorem deviceReset_pool (s : State) (p : MemPort) : (deviceReset s).pool p = (s.pool p).retireAll := by
  cases p <;> rfl

theorem abortCompletions_eq (s : State) :
    s.abortCompletions = s.outstanding.map (fun o => zeroCompletion o.slot o.tag o.op o.length .aborted) ++
      (List.finRange 16).flatMap fun i =>
        (s.queued i).map fun r => zeroCompletion r.initiator r.tag r.op r.length .aborted := by
  unfold State.abortCompletions
  rw [List.map_congr_left fun o _ => abortOutstanding_eq o]
  congr 1
  exact List.flatMap_congr fun i _ => List.map_congr_left fun r _ => answerOf_eq r .aborted

/-- A device reset, whatever becomes of the link and of the reset input's level. -/
theorem deviceReset_resets {s t : State} (ht : 1 ≤ s.mgmt.threshold) (l : Link) (h : Bool)
    (htt : t = State.latchNotice { deviceReset s with link := l, resetHeld := h }) :
    DeviceResetOf s t := by
  subst htt
  refine
    { completions := ?_, outstanding := rfl, queues := fun i => ?_, pointer := rfl, tracker := rfl
      tfu := ⟨rfl, rfl⟩, identifiers := fun p id => ?_, lastGiven := fun p => ?_, lastServed := rfl
      slots := fun i => ?_, cache := fun k => ?_, map := rfl, timer := ⟨rfl, rfl⟩, root := rfl
      log := ⟨rfl, rfl, rfl⟩, notice := ⟨rfl, noticeLine_of_quiet rfl rfl ht⟩, start := rfl
      device := rfl, registersKept := ⟨rfl, rfl, rfl, rfl, rfl, rfl⟩
      registersReset := ⟨rfl, rfl, rfl⟩, snapshot := rfl, commands := rfl }
  · show s.completions ++ s.abortCompletions = _
    rw [abortCompletions_eq, List.append_assoc]
  · have hq : (deviceReset s).queues i = Intake.empty := Vector.getElem_replicate ..
    exact ⟨congrArg Intake.regular hq, congrArg Intake.priority hq⟩
  · exact (congrArg (IdPool.get · id) (deviceReset_pool s p)).trans (IdPool.get_retireAll _ id)
  · exact (congrArg IdPool.last (deviceReset_pool s p)).trans rfl
  · have hslot := deviceReset_slot s i
    exact ⟨congrArg SlotRecord.state hslot, congrArg SlotRecord.binding hslot,
      congrArg SlotRecord.switch hslot, congrArg SlotRecord.stack hslot,
      congrArg SlotRecord.pendingForce hslot, congrArg SlotRecord.lastForce hslot,
      congrArg SlotRecord.disableReq hslot, congrArg SlotRecord.held hslot⟩
  · exact Vector.getElem_replicate ..

/-- Settles O39: both ways make the same reset, which differs in the link and the input's level alone. -/
theorem resetCommandAndInputResetTheDevice : Obligations.ResetCommandAndInputResetTheDevice := by
  refine ⟨fun s hf ht => ⟨_, exec_reset hf, ?_, rfl, rfl⟩, fun s ht => ⟨_, rfl, ?_, rfl, rfl⟩⟩
  · exact deviceReset_resets ht { receiver := .complete, value := 0, status := some .ok } s.resetHeld rfl
  · exact deviceReset_resets ht s.link true rfl

/-! ### Power-on reset (R46, R171) -/

theorem abandoned_eq (r : Receiver) :
    r.abandoned = if r = .boundary then .boundary else .awaitDeselect := by
  cases r <;> rfl

theorem reset_queues (i : Slot) : State.reset.queues i = Intake.empty := Vector.getElem_replicate ..

theorem reset_slot (i : Slot) : State.reset.slot i = SlotRecord.fresh .unbound :=
  Vector.getElem_replicate ..

theorem reset_cache (k : Fin 256) : State.reset.cache[k] = .free := Vector.getElem_replicate ..

theorem fresh_get (id : IssueId) : IdPool.fresh.get id = .free := Vector.getElem_replicate ..

theorem reset_pool (p : MemPort) : State.reset.pool p = IdPool.fresh := by
  cases p <;> rfl

/-- Settles O40: the values of the tables, and the receiver by the frame that the reset is taken in. -/
theorem powerOnResetGivesTheResetValues : Obligations.PowerOnResetGivesTheResetValues := by
  intro s frame
  have hlink : (frameBegun frame s).link.receiver.abandoned =
      if s.link.receiver = .boundary ∧ frame = none then .boundary else .awaitDeselect := by
    rw [abandoned_eq]
    exact if_congr (frameBegun_boundary s frame) rfl rfl
  refine ⟨_, rfl, ?_, rfl, rfl, rfl, rfl, rfl, rfl, rfl, rfl, fun i => ⟨?_, ?_, reset_slot i⟩,
    reset_cache, fun p id => ?_, rfl, rfl, rfl, rfl, rfl, rfl, rfl,
    noticeLine_of_quiet rfl rfl (le_refl 1), rfl, rfl, rfl, rfl, rfl, rfl, rfl, rfl, rfl, rfl, rfl, rfl⟩
  · rw [← hlink]
    rfl
  · exact congrArg Intake.regular (reset_queues i)
  · exact congrArg Intake.priority (reset_queues i)
  · have hpool := reset_pool p
    exact ⟨(congrArg (IdPool.get · id) hpool).trans (fresh_get id), congrArg IdPool.last hpool⟩

end Sys2Proof.Machine
end

section
/-! PROOFS. Forces: judged at a write of FORCE, taken at once or at the end of a drain, and cancelled. -/

namespace Sys2Proof.Machine

/-! ### A FORCE judged (R149) -/

/-- The two commands that write FORCE. -/
theorem exec_force {s : State} (hf : TakesFrames s) {i : Slot} {f : PendingForce} {c : Instr}
    (hc : (∃ g e, c = .forceCall i g e ∧ f = .call { group := g, entry := e }) ∨
      (c = .forceRebind i ∧ f = .rebind)) : exec c s = answered (forceCommand i f s) := by
  rcases hc with ⟨g, e, rfl, rfl⟩ | ⟨rfl, rfl⟩
  · exact exec_forceCall hf i g e
  · exact exec_forceRebind hf i

theorem not_guards {s : State} (h : ¬Guarding s) : s.device.guards = false := by
  rw [← Bool.not_eq_true, guards_iff]
  exact h

theorem guards_ne_false {s : State} (h : Guarding s) : ¬s.device.guards = false := by
  rw [(guards_iff s).mpr h]
  simp

theorem forceCommand_refused {s : State} (h : ¬Guarding s) (i : Slot) (f : PendingForce) :
    forceCommand i f s = (.refused, s) := by
  unfold forceCommand
  rw [if_pos (not_guards h)]

theorem forceCommand_busy {s : State} {i : Slot} (h : Guarding s)
    (hp : (s.slot i).pendingForce ≠ none) (f : PendingForce) : forceCommand i f s = (.busy, s) := by
  unfold forceCommand
  rw [if_neg (guards_ne_false h), if_pos (Option.isSome_iff_ne_none.mpr hp)]

theorem forceCommand_off {s : State} {i : Slot} (h : Guarding s) (hp : (s.slot i).pendingForce = none)
    (ho : (s.slot i).state = .off ∨ (s.slot i).disableReq = true) (f : PendingForce) :
    forceCommand i f s = (.ok, s.forceEnded i .slotOff) := by
  unfold forceCommand
  rw [if_neg (guards_ne_false h), if_neg (by simp [hp]), if_pos ho]
  rfl

theorem forceCommand_notBound {s : State} {i : Slot} (h : Guarding s)
    (hp : (s.slot i).pendingForce = none) (hd : (s.slot i).disableReq = false)
    (hu : (s.slot i).state = .unbound) {f : PendingForce} (hf : f ≠ .rebind) :
    forceCommand i f s = (.ok, s.forceEnded i .notBound) := by
  have hcall : f.isCall = true := by
    cases f with
    | call g => rfl
    | rebind => exact absurd rfl hf
  unfold forceCommand
  rw [if_neg (guards_ne_false h), if_neg (by simp [hp]), if_neg (by simp [hu, hd]), if_pos ⟨hcall, hu⟩]
  rfl

theorem takeForce_queued {s : State} {i : Slot} (h : s.queued i = []) :
    (takeForce s i).queued i = [] := by
  have hq : (takeForce s i).queues i = { regular := [], priority := [] } :=
    (takeForce_frame s i).ownQueues.elim (fun hx => hx.trans (queues_of_queued h)) id
  unfold State.queued
  rw [hq]
  rfl

/-- An event that leaves its slot bound, or with nothing queued, ends with the taking of its force. -/
theorem conclude_takes {s : State} {i : Slot} (hbefore : (s.slot i).state = .unbound → s.queued i = [])
    (hafter : ((takeForce s i).slot i).state = .unbound → s.queued i = []) :
    conclude s i = takeForce s i := by
  unfold conclude
  rw [answerIfUnbound_eq]
  split
  next h =>
    have hempty : s.queued i = [] := by
      rcases h with h | h
      · exact hbefore (of_decide_eq_true h)
      · exact hafter h
    have hanswer := answerIfUnbound_empty (b := true) (takeForce_queued hempty)
    rw [answerIfUnbound_eq, if_pos (Or.inl rfl)] at hanswer
    exact hanswer
  next => rfl

theorem not_mayTake_of_staysPending {r : SlotRecord} (h : StaysPending r) (f : PendingForce) :
    ¬MayTake r f := by
  rintro (hm | ⟨hm, -⟩ | ⟨hm, sw, hsw, ho⟩)
  · rcases h with h | ⟨h, -⟩
    · simp [InLaterStage, hm] at h
    · simp [hm] at h
  · rcases h with h | ⟨h, -⟩
    · simp [InLaterStage, hm] at h
    · simp [hm] at h
  · rcases h with h | ⟨-, x, hx, hox⟩
    · simp [InLaterStage, hm] at h
    · rw [hsw] at hx
      obtain rfl := Option.some.inj hx
      rw [ho] at hox
      simp at hox

theorem state_of_staysPending {r : SlotRecord} (h : StaysPending r) :
    r.state ≠ .off ∧ r.state ≠ .unbound := by
  rcases h with h | ⟨h, -⟩
  · rcases h with h | h | h | h | h <;> simp [h]
  · simp [h]

/-- Settles O41: the checks in their order, and for an accepted force no taking in the same event. -/
theorem forceIsJudgedInOrder : Obligations.ForceIsJudgedInOrder := by
  refine ⟨fun s c i f hf hc => ⟨fun hg => ?_, fun hg hp => ?_, fun hg hp ho => ?_,
    fun hg hp hd hu hne => ?_, fun hg hp hd hstays => ?accepted⟩, fun s v hf h1 h2 => ?kind⟩
  · rw [exec_force hf hc, forceCommand_refused hg]
    rfl
  · rw [exec_force hf hc, forceCommand_busy hg hp]
    rfl
  · rw [exec_force hf hc, forceCommand_off hg hp ho]
    rfl
  · rw [exec_force hf hc, forceCommand_notBound hg hp hd hu hne]
    rfl
  case accepted =>
    obtain ⟨t, ht⟩ : ∃ t, t = s.setSlot i { s.slot i with pendingForce := some f } := ⟨_, rfl⟩
    have hslot : t.slot i = { s.slot i with pendingForce := some f } := by rw [ht, State.slot_setSlot]
    have hstate : (t.slot i).state = (s.slot i).state := by rw [hslot]
    have hoff : (s.slot i).state ≠ .off := hstays.elim (fun h => h.2.1) fun h => (state_of_staysPending h).1
    have hrebind : (s.slot i).state = .unbound → f = .rebind := fun hu => by
      rcases hstays with h | h
      · exact (h.2.2 hu).1
      · exact absurd hu (state_of_staysPending h).2
    have hempty : (s.slot i).state = .unbound → t.queued i = [] := fun hu => by
      rw [ht]
      rcases hstays with h | h
      · exact (h.2.2 hu).2
      · exact absurd hu (state_of_staysPending h).2
    have hrests : takeForce t i = t := by
      rcases hstays with h | h
      · exact takeForce_idle (by rw [ht]; exact h.1)
      · refine takeForce_not fun g _ => ?_
        rw [hslot]
        exact not_mayTake_of_staysPending h g
    have hconclude : conclude t i = t := by
      rw [conclude_takes (by rw [hstate]; exact hempty) (by rw [hrests, hstate]; exact hempty), hrests]
    rw [exec_force hf hc, forceCommand_accepts hg hp hd hoff hrebind]
    unfold acceptForce
    rw [← ht, hconclude]
    rfl
  case kind =>
    have hkind : (v.extractLsb' 4 4).toNat = v.toNat / 16 % 16 := by
      rw [BitVec.extractLsb'_toNat, Nat.shiftRight_eq_div_pow]
    have hrefused : registerWritten 7#16 v s = (.refused, s) := by
      show forceWritten v s = _
      unfold forceWritten
      rw [hkind]
      split
      next h => exact absurd h h1
      next h => exact absurd h h2
      next => rfl
    rw [exec_registerWrite hf, hrefused]
    rfl

/-! ### A force taken at once (R150, R151) -/

/-- A pending force of a slot whose record had none is taken off again. -/
theorem SlotRecord.pending_taken {r : SlotRecord} (hp : r.pendingForce = none) (f : PendingForce) :
    ({ ({ r with pendingForce := some f } : SlotRecord) with pendingForce := none } : SlotRecord) = r := by
  rw [← hp]

section
variable {s : State} {i : Slot} {f : PendingForce} (hr : s.device = .running)
  (hp : (s.slot i).pendingForce = none) (hd : (s.slot i).disableReq = false)
  (hm : MayTake (s.slot i) f)
include hr hp hd hm

/-- Granules of the slot are in flight: the slot waits in DRAINING. -/
theorem forceCommand_drains (hempty : (s.slot i).state = .unbound → s.queued i = [])
    (hx : ∃ x ∈ s.tracker, x.slot = i) :
    forceCommand i f s = (.ok, s.setSlot i { s.slot i with
      state := .draining, switch := some ((s.slot i).forceTaken f) }) := by
  obtain ⟨hoff, hunbound⟩ := ne_off_of_mayTake hm
  have htake := takeForce_of_granules (s := s.setSlot i { s.slot i with pendingForce := some f }) hr
    (by rw [State.slot_setSlot]) (by rw [State.slot_setSlot]; exact hm) hx
  rw [State.slot_setSlot, State.setSlot_setSlot] at htake
  rw [forceCommand_accepts (Or.inl hr) hp hd hoff hunbound]
  unfold acceptForce
  rw [conclude_takes (by rw [State.slot_setSlot]; exact hempty)
    (by rw [htake, State.slot_setSlot]; simp), htake, ← hp]
  rfl

/-- None are: the switch of the force goes on, and a slot that it leaves UNBOUND has its queues answered. -/
theorem forceCommand_starts (hw : (s.slot i).switch = none) (hroot : s.root ≠ none)
    (hempty : (s.slot i).state = .unbound → s.queued i = []) {t : State}
    (ht : s.forceStarts i (s.slot i) f = t) :
    forceCommand i f s =
      (.ok, if (t.slot i).state = .unbound then t.queueAnswered i else t) := by
  obtain ⟨hoff, hunbound⟩ := ne_off_of_mayTake hm
  have htake : takeForce (s.setSlot i { s.slot i with pendingForce := some f }) i = t := by
    rw [takeForce_rests (r := { s.slot i with pendingForce := some f }) (f := f) hroot hr rfl hm hw hd,
      SlotRecord.pending_taken hp, ht]
  rw [forceCommand_accepts (Or.inl hr) hp hd hoff hunbound]
  unfold acceptForce
  by_cases hafter : (t.slot i).state = .unbound
  · unfold conclude
    rw [htake, answerIfUnbound_eq, if_pos (Or.inr hafter), if_pos hafter]
  · rw [conclude_takes (by rw [State.slot_setSlot]; exact hempty)
      (by rw [htake]; exact fun h => absurd h hafter), htake, if_neg hafter]

end

/-! ### Force CALL -/

/-- A force replaces a captured mailbox request and keeps its mailbox (R151). -/
theorem forceTaken_of_mailbox {r : SlotRecord} {sw : SwitchRec} {m : MailboxRef}
    (hw : r.switch = some sw) (hm : sw.mailbox = some m) (f : PendingForce) :
    r.forceTaken f = { (match f with
        | .call g => forceRecord .call (some g)
        | .rebind => forceRecord .rebind none) with
      preempted := some { target := m.target, seqTag := sw.seqTag.getD 0 } } := by
  unfold SlotRecord.forceTaken PendingForce.record
  rw [hw]
  dsimp only
  rw [hm]
  rfl

theorem forceTaken_of_rest {r : SlotRecord} (hw : r.switch = none) (f : PendingForce) :
    r.forceTaken f = f.record := by
  unfold SlotRecord.forceTaken
  rw [hw]
  cases f <;> rfl

theorem afterDraining_of_call {sw : SwitchRec} (ho : sw.origin = .force) (hk : sw.kind = .call)
    (s : State) (i : Slot) : afterDraining s i sw = resolve s i sw := by
  unfold afterDraining
  rw [ho, hk]

/-- A slot drained for a force CALL goes on as a call that is opened. -/
theorem conclude_drained_call {u : State} {i : Slot} {sw : SwitchRec} {c : RootCopy} {g : GateRef}
    (hw : (u.slot i).switch = some sw) (ho : sw.origin = .force) (hk : sw.kind = .call)
    (hg : sw.gate = some g) (hc : u.root = some c) :
    conclude (afterDraining u i sw) i =
      u.callOpenedBy State.comesToRest i (u.slot i) sw c g := by
  have h := conclude_resolve_call (u := u) (i := i) (r := u.slot i) (by rw [← hw])
    (Or.inl (by rw [hc]; simp)) hk hc hg
  rw [State.setSlot_slot] at h
  rw [afterDraining_of_call ho hk, h]

/-- Settles O42: the force of a captured request, of a drained slot, and of a slot at rest. -/
theorem forceCallIsTakenFromAnActiveSlot : Obligations.ForceCallIsTakenFromAnActiveSlot := by
  refine ⟨fun s i sw m f c hf hr hst hsw ho hm hp hd hx hc => ?captured,
    fun s u c e rest st sw g r hs hsw ho hk hg hroot => ?drained,
    fun s i g e hf hr hst hsw hp hd => ⟨fun hx => ?waits, fun c hroot hx => ?rest⟩⟩
  case captured =>
    have hexec := exec_force hf (i := i) (f := f) (c := c)
      (hc.imp (fun ⟨g, e, h1, h2⟩ => ⟨g, e, h2, h1⟩) And.symm)
    rw [hexec, forceCommand_drains hr hp hd (Or.inr (Or.inr ⟨hst, sw, hsw, ho⟩))
      (fun h => absurd (hst.symm.trans h) (by simp)) hx, forceTaken_of_mailbox hsw hm, ← hst]
    rfl
  case drained =>
    have huslot : u.slot e.slot = s.slot e.slot := hs.slot e.slot
    obtain ⟨-, -, -, htfu, huroot, -⟩ := hs.parts
    obtain ⟨hwaits, hdone⟩ := exec_drains hs hsw (by rw [ho]; simp)
    have husw : (u.slot e.slot).switch = some sw := by rw [huslot]; exact hsw.switch
    have hcall := conclude_drained_call husw ho hk hg (huroot.trans hroot)
    refine ⟨hwaits, fun hx hlt hdir => ?_, fun hx hle => ?_⟩
    · rw [hdone hx, hcall, callOpenedBy_of_inRange _ hlt, tableAddr_of_lt (by omega), ← husw, huslot, htfu]
    · rw [hdone hx, hcall]
      unfold State.callOpenedBy
      rw [if_pos hle]
      rfl
  case waits =>
    rw [exec_force hf (Or.inl ⟨g, e, rfl, rfl⟩), forceCommand_drains hr hp hd (Or.inl hst)
      (fun h => absurd (hst.symm.trans h) (by simp)) hx, forceTaken_of_rest hsw]
    rfl
  case rest =>
    have hempty : (s.slot i).state = .unbound → s.queued i = [] := fun h =>
      absurd (hst.symm.trans h) (by simp)
    have hstarts := forceStarts_call hx hroot (s.slot i) { group := g, entry := e }
    refine ⟨fun hlt hdir => ?_, fun hle => ?_⟩
    · rw [callOpenedBy_of_inRange _ hlt, tableAddr_of_lt (by dsimp only; omega)] at hstarts
      rw [exec_force hf (Or.inl ⟨g, e, rfl, rfl⟩), forceCommand_starts hr hp hd (Or.inl hst) hsw
        (by rw [hroot]; simp) hempty hstarts, if_neg (by rw [State.slot_setSlot]; simp)]
      rfl
    · rw [callOpenedBy_force_of_range _ hst hsw hle] at hstarts
      rw [exec_force hf (Or.inl ⟨g, e, rfl, rfl⟩), forceCommand_starts hr hp hd (Or.inl hst) hsw
        (by rw [hroot]; simp) hempty hstarts, if_neg (by rw [State.slot_setSlot]; simp [hst])]
      rfl

/-! ### Force REBIND, and the BIND of an enable -/

/-- A slot whose failed REBIND or BIND leaves it UNBOUND in a RUNNING device, its queues answered. -/
theorem queueAnswered_leftUnbound {s : State} (hr : s.device = .running) (i : Slot) (r : SlotRecord)
    (x : FaultRecord) :
    State.queueAnswered
      (State.setSlot { s with
        cache := s.withoutStaged i, map := s.withoutReserved i, log := s.log.join x } i
        { r with state := .unbound, switch := none }) i = s.leftUnbound i r x :=
  queueAnswered_of_guarding (s := State.setSlot { s with
    cache := s.withoutStaged i, map := s.withoutReserved i, log := s.log.join x } i
    { r with state := .unbound, switch := none }) (Or.inl hr) i

theorem afterDraining_of_rebind {sw : SwitchRec} (ho : sw.origin = .force) (hk : sw.kind = .rebind)
    (s : State) (i : Slot) : afterDraining s i sw = startBind s i sw := by
  unfold afterDraining
  rw [ho, hk]

/-- Settles O43: a REBIND waits for the slot's granules, and then opens at its boot record or fails. -/
theorem forceRebindStartsFromTheBootRecord : Obligations.ForceRebindStartsFromTheBootRecord := by
  refine ⟨fun s u c e rest st sw r hs hsw ho hk hroot => ?drained,
    fun s i hf hr hst hp hd hsw hx => ?waits,
    fun s t i c hf hr hst hp hd hsw hroot hx ht => ?rest⟩
  case drained =>
    obtain ⟨hwaits, hdone⟩ := exec_drains hs hsw (by rw [ho]; simp)
    refine ⟨hwaits, fun hx => ?_⟩
    have husw : (u.slot e.slot).switch = some sw := by rw [hs.slot]; exact hsw.switch
    have huroot : u.root = some r := by
      obtain ⟨-, -, -, -, h, -⟩ := hs.parts
      exact h.trans hroot
    rw [hdone hx, afterDraining_of_rebind ho hk, conclude_startBind husw huroot]
  case waits =>
    rw [exec_force hf (Or.inr ⟨rfl, rfl⟩), forceCommand_drains hr hp hd
      (hst.imp id fun h => Or.inl ⟨h.1, rfl⟩)
      (fun h => hst.elim (fun ha => absurd (ha.symm.trans h) (by simp)) And.right) hx,
      forceTaken_of_rest hsw]
    rfl
  case rest =>
    have hm : MayTake (s.slot i) .rebind := hst.imp id fun h => Or.inl ⟨h.1, rfl⟩
    have hempty : (s.slot i).state = .unbound → s.queued i = [] := fun h =>
      hst.elim (fun ha => absurd (ha.symm.trans h) (by simp)) And.right
    have htu : t = s.unboundAt i := ht
    subst htu
    clear ht
    have hstarts := forceStarts_rebind hx hroot (s.slot i)
    refine ⟨fun h0 ha hb => ?_, fun code hcode => ?_⟩
    · rw [startOpenedBy_of_free _ _ (Or.inl rfl) h0 ha hb] at hstarts
      rw [exec_force hf (Or.inr ⟨rfl, rfl⟩), forceCommand_starts hr hp hd hm hsw
        (by rw [hroot]; simp) hempty hstarts,
        if_neg (by rw [State.slot_setSlot]; simp [forceRecord])]
      rfl
    · have hdone : code ≠ .done := by
        rcases hcode with ⟨-, rfl⟩ | ⟨-, rfl⟩ | ⟨-, -, -, rfl⟩ <;> simp
      rw [startOpenedBy_force_of_fails _ _ hdone hcode] at hstarts
      rw [exec_force hf (Or.inr ⟨rfl, rfl⟩), forceCommand_starts hr hp hd hm hsw
        (by rw [hroot]; simp) hempty hstarts, if_pos (by rw [State.slot_setSlot])]
      exact congrArg (fun v => Host.Outcome.next (State.latchNotice (State.framed v .ok)))
        (queueAnswered_leftUnbound
          (s := { s.unboundAt i with mgmt := { s.mgmt with sticky := s.mgmt.sticky ||| 2#3 } }) hr i
          { s.slot i with binding := none, stack := [], lastForce := some code } _)

/-! ### CANCEL (R153) -/

/-- Settles O44: by the pending force of the slot. -/
theorem cancelIsAnswered : Obligations.CancelIsAnswered := by
  intro s i hf
  refine ⟨fun hp => ?_, fun hp => ?_⟩ <;> rw [exec_cancel hf]
  · obtain ⟨f, hf'⟩ := Option.ne_none_iff_exists'.mp hp
    have hcancel : cancelCommand i s = (.ok,
        { s.setSlot i { s.slot i with pendingForce := none, lastForce := some .cancelled } with
          mgmt := { s.mgmt with
            sticky := s.mgmt.sticky ||| 2#3, cancelAnswer := .cancelled, cancelSlot := i } }) := by
      unfold cancelCommand State.endForce
      rw [hf']
      dsimp only
      rw [State.slot_setSlot, State.setSlot_setSlot]
      rfl
    rw [hcancel]
    rfl
  · have hcancel : cancelCommand i s =
        (.ok, { s with mgmt := { s.mgmt with cancelAnswer := .tooLate, cancelSlot := i } }) := by
      unfold cancelCommand
      rw [hp]
    rw [hcancel]
    rfl

end Sys2Proof.Machine
end

section
/-! PROOFS. Slot control: the bits that a write of SLOT_ENABLE changes, the enable and the disable of a
slot. -/

namespace Sys2Proof.Machine

/-! ### The bits of SLOT_ENABLE -/

theorem oneHot_getLsbD (i j : Slot) : (1#16 <<< i.val).getLsbD j.val = decide (j = i) := by
  rw [Bool.eq_iff_iff, decide_eq_true_eq]
  have hi := i.isLt
  have hj := j.isLt
  simp only [BitVec.getLsbD_shiftLeft, BitVec.getLsbD_one, Bool.and_eq_true, decide_eq_true_eq,
    Bool.not_eq_true', decide_eq_false_iff_not, Fin.ext_iff]
  omega

theorem enableWith_getLsbD (s : State) (i j : Slot) :
    (s.enableWith i).getLsbD j.val = (s.mgmt.slotEnable.getLsbD j.val || decide (j = i)) := by
  unfold State.enableWith
  rw [BitVec.getLsbD_or, oneHot_getLsbD]

theorem enableWithout_getLsbD (s : State) (i j : Slot) :
    (s.enableWithout i).getLsbD j.val = (s.mgmt.slotEnable.getLsbD j.val && !decide (j = i)) := by
  unfold State.enableWithout
  rw [BitVec.getLsbD_and, BitVec.getLsbD_not, oneHot_getLsbD]
  simp [j.isLt]

theorem mem_changedSlots {s : State} {v : BitVec 16} {i : Slot} :
    i ∈ s.changedSlots v ↔ v.getLsbD i.val ≠ s.mgmt.slotEnable.getLsbD i.val := by
  unfold State.changedSlots
  rw [List.mem_filter]
  simp [allSlots]

theorem changedSlots_nodup (s : State) (v : BitVec 16) : (s.changedSlots v).Nodup :=
  (List.nodup_finRange 16).filter _

theorem changedSlots_enableWith {s : State} {i : Slot} (h : s.mgmt.slotEnable.getLsbD i.val = false) :
    s.changedSlots (s.enableWith i) = [i] := by
  refine eq_singleton_of_mem_iff (changedSlots_nodup s _) fun j => ?_
  rw [mem_changedSlots, enableWith_getLsbD]
  by_cases hj : j = i
  · subst hj
    rw [h]
    simp
  · simp [hj]

theorem changedSlots_enableWithout {s : State} {i : Slot} (h : s.mgmt.slotEnable.getLsbD i.val = true) :
    s.changedSlots (s.enableWithout i) = [i] := by
  refine eq_singleton_of_mem_iff (changedSlots_nodup s _) fun j => ?_
  rw [mem_changedSlots, enableWithout_getLsbD]
  by_cases hj : j = i
  · subst hj
    rw [h]
    simp
  · simp [hj]

theorem changedSlots_same {s : State} {i : Slot} (h : s.mgmt.slotEnable.getLsbD i.val = true) :
    s.changedSlots (s.enableWith i) = [] := by
  rw [List.eq_nil_iff_forall_not_mem]
  intro j
  rw [mem_changedSlots, enableWith_getLsbD]
  by_cases hj : j = i
  · subst hj
    rw [h]
    simp
  · simp [hj]

/-- SLOT_ENABLE written, the free order of the changed bits spent. -/
def State.enableWritten (s : State) (v : BitVec 16) : State :=
  { s with mgmt := { s.mgmt with slotEnable := v }, freeCount := s.freeCount + 1 }

theorem slotEnableCommand_one {s : State} {v : BitVec 16} {i : Slot} (h : s.changedSlots v = [i]) :
    slotEnableCommand v s = (.ok, slotBitChanged v (s.enableWritten v) i) := by
  unfold slotEnableCommand
  rw [h]
  rfl

/-- The rows of SLOT_ENABLE: one bit set, one set already, one cleared. -/
theorem exec_slotEnable_clear {s : State} (hf : TakesFrames s) {i : Slot}
    (h : s.mgmt.slotEnable.getLsbD i.val = false) :
    exec (.slotEnable i) s =
      .next (State.framed (enableSlot (s.enableWritten (s.enableWith i)) i) .ok).latchNotice := by
  have hbit : (s.enableWith i).getLsbD i.val = true := by simp [enableWith_getLsbD]
  rw [exec_slotEnable hf, slotEnableCommand_one (changedSlots_enableWith h)]
  unfold slotBitChanged
  rw [if_pos hbit]
  rfl

theorem exec_slotEnable_set {s : State} (hf : TakesFrames s) {i : Slot}
    (h : s.mgmt.slotEnable.getLsbD i.val = true) :
    exec (.slotEnable i) s = .next (State.framed (s.enableWritten (s.enableWith i)) .ok).latchNotice := by
  rw [exec_slotEnable hf]
  unfold slotEnableCommand
  rw [changedSlots_same h]
  rfl

theorem exec_slotDisable_set {s : State} (hf : TakesFrames s) {i : Slot}
    (h : s.mgmt.slotEnable.getLsbD i.val = true) :
    exec (.slotDisable i) s =
      .next (State.framed (disableSlot (s.enableWritten (s.enableWithout i)) i) .ok).latchNotice := by
  have hbit : ¬(s.enableWithout i).getLsbD i.val = true := by
    rw [enableWithout_getLsbD]
    simp
  rw [exec_slotDisable hf, slotEnableCommand_one (changedSlots_enableWithout h)]
  unfold slotBitChanged
  rw [if_neg hbit]
  rfl

/-! ### The enable of a slot (R156) -/

/-- The switch record of an enable's BIND. -/
def enableRecord : SwitchRec := { forceRecord .bind none with origin := .enable }

theorem enableSlot_withdraws {s : State} {i : Slot} (h : (s.slot i).disableReq = true) :
    enableSlot s i = s.setSlot i { s.slot i with disableReq := false } := by
  unfold enableSlot
  rw [if_pos h]

theorem enableSlot_of_off {s : State} {i : Slot} (hd : (s.slot i).disableReq = false)
    (ho : (s.slot i).state = .off) : enableSlot s i = enableOff s i := by
  unfold enableSlot
  rw [if_neg (by simp [hd]), if_pos ho]

theorem enableOff_unbinds {s : State} {i : Slot} (h : ¬(s.device = .running ∧ s.bootOf i ≠ 0)) :
    enableOff s i = s.setSlot i { s.slot i with state := .unbound } := by
  unfold enableOff
  rw [if_neg h]
  rfl

theorem bootOf_eq {s : State} {c : RootCopy} (h : s.root = some c) (i : Slot) : s.bootOf i = c.boot[i] := by
  unfold State.bootOf
  rw [h]

theorem bootOf_eq_zero_of {s : State} {i : Slot}
    (h : s.root = none ∨ ∃ c, s.root = some c ∧ c.boot[i] = 0) : s.bootOf i = 0 := by
  rcases h with h | ⟨c, h, h0⟩
  · unfold State.bootOf
    rw [h]
  · rw [bootOf_eq h, h0]

/-- A slot drained for an enable starts its BIND. -/
theorem conclude_drained_enable {u : State} {i : Slot} {sw : SwitchRec} {c : RootCopy}
    (hw : (u.slot i).switch = some sw) (ho : sw.origin = .enable) (hc : u.root = some c) :
    conclude (afterDraining u i sw) i = u.startOpened i sw c := by
  have hstage : u.setSlotState i .binding =
      u.setSlot i { u.slot i with state := .binding, switch := some sw } := by
    rw [← hw]
    rfl
  have hstart : afterDraining u i sw = startBind (u.setSlotState i .binding) i sw := by
    unfold afterDraining
    rw [ho]
  rw [hstart, hstage, conclude_startBind (by rw [State.slot_setSlot]) (by exact hc)]
  exact startOpened_setSlot u .binding (some sw) sw c

/-- The BIND of an enable waits for the slot's granules. -/
theorem enableOff_drains {s : State} {i : Slot} (hr : s.device = .running) (hb : s.bootOf i ≠ 0)
    (hp : (s.slot i).pendingForce = none) (hx : ∃ x ∈ s.tracker, x.slot = i) :
    enableOff s i = s.setSlot i { s.slot i with state := .draining, switch := some enableRecord } := by
  unfold enableOff
  rw [if_pos ⟨hr, hb⟩, endDraining_waits (by exact hx)]
  exact conclude_same (takeForce_of_none (by rw [State.slot_setSlot]; exact hp))
    (by rw [State.slot_setSlot]; simp)

/-- With none in flight it starts at once. -/
theorem enableOff_starts {s : State} {i : Slot} {c : RootCopy} (hr : s.device = .running)
    (hc : s.root = some c) (hb : c.boot[i] ≠ 0) (hx : ∀ x ∈ s.tracker, x.slot ≠ i) :
    enableOff s i = s.startOpened i enableRecord c := by
  unfold enableOff
  rw [if_pos ⟨hr, by rw [bootOf_eq hc]; exact hb⟩,
    endDraining_done (sw := enableRecord) (by exact hx) (by rw [State.slot_setSlot])
      (by rw [State.slot_setSlot]; rfl),
    conclude_drained_enable (by rw [State.slot_setSlot]; rfl) rfl (by exact hc)]
  exact startOpened_setSlot s .draining (some enableRecord) enableRecord c

/-- Settles O45: an enable withdraws a disable, makes its slot UNBOUND, or starts its BIND. -/
theorem slotEnableBindsOrUnbinds : Obligations.SlotEnableBindsOrUnbinds := by
  refine ⟨fun s u c e rest st sw r hs hsw ho hk hroot => ?drained, fun s i on hf hon => ?rows⟩
  case drained =>
    obtain ⟨hwaits, hdone⟩ := exec_drains hs hsw (by rw [ho]; simp)
    refine ⟨hwaits, fun hx => ?_⟩
    have husw : (u.slot e.slot).switch = some sw := by rw [hs.slot]; exact hsw.switch
    have huroot : u.root = some r := by
      obtain ⟨-, -, -, -, h, -⟩ := hs.parts
      exact h.trans hroot
    rw [hdone hx, conclude_drained_enable husw ho huroot]
  case rows =>
    have honw : on = s.enableWritten (s.enableWith i) := hon
    subst honw
    clear hon
    refine ⟨fun h => exec_slotEnable_set hf h, fun h hd => ?_, fun h hd ho hno => ?_,
      fun h hd ho hp hr hc hx => ?_, fun c code t hc hb h hd ho hp hr hx ht hcode => ?_,
      fun c hc hb ha h hd ho hp hr hx hfree hroom => ?_⟩ <;> rw [exec_slotEnable_clear hf h]
    · rw [enableSlot_withdraws (by exact hd)]
      rfl
    · rw [enableSlot_of_off (by exact hd) (by exact ho), enableOff_unbinds]
      · rfl
      · rintro ⟨hr, hb⟩
        rcases hno with hno | hno
        · exact hno hr
        · exact hb (bootOf_eq_zero_of (s := s.enableWritten _) hno)
    · obtain ⟨c, hc, hb⟩ := hc
      have hboot : (s.enableWritten (s.enableWith i)).bootOf i ≠ 0 := by
        rw [bootOf_eq (s := s.enableWritten _) hc]
        exact hb
      rw [enableSlot_of_off (by exact hd) (by exact ho),
        enableOff_drains (by exact hr) hboot (by exact hp) (by exact hx)]
      rfl
    · have htu : t = (s.enableWritten (s.enableWith i)).unboundAt i := ht
      subst htu
      clear ht
      have hfails : BootFails ((s.enableWritten (s.enableWith i)).unboundAt i) c.boot[i] code :=
        hcode.elim (fun h => Or.inr (Or.inl h)) fun ⟨h1, h2, h3⟩ => Or.inr (Or.inr ⟨hb, h1, h2, h3⟩)
      have hdone : code ≠ .done := by
        rcases hcode with ⟨-, rfl⟩ | ⟨-, -, rfl⟩ <;> simp
      obtain ⟨a, hopen⟩ := startOpenedBy_of_fails State.comesToRest (s.slot i) (sw := enableRecord)
        (Or.inr rfl) hfails
      have hstart : (s.enableWritten (s.enableWith i)).startOpened i enableRecord c =
          ((s.enableWritten (s.enableWith i)).unboundAt i).leftUnbound i
            { s.slot i with binding := none, stack := [] } (bindFault i code) := by
        refine Eq.trans hopen ?_
        rw [switchFailedBy_of_bind _ _ (Or.inr rfl) rfl (Or.inr rfl) hdone,
          comesToRest_of_unbound (by exact hd) (by exact hp) rfl]
        exact queueAnswered_leftUnbound (s := (s.enableWritten (s.enableWith i)).unboundAt i) hr i
          { s.slot i with binding := none, stack := [] } (bindFault i code)
      rw [enableSlot_of_off (by exact hd) (by exact ho),
        enableOff_starts (by exact hr) (by exact hc) hb (by exact hx), hstart]
    · have hidle : ¬((s.enableWritten (s.enableWith i)).unboundAt i).recordBusy c.boot[i] := by
        rintro (⟨e, he, hrec⟩ | hfull)
        · exact hfree e (List.mem_filter.mp he).1 hrec
        · exact absurd (hfull.trans (List.length_filter_le _ s.map)) (Nat.not_le.mpr hroom)
      have hstart := startOpenedBy_of_free State.comesToRest (s.slot i) (sw := enableRecord)
        (s := s.enableWritten (s.enableWith i)) (Or.inr rfl) hb ha hidle
      rw [enableSlot_of_off (by exact hd) (by exact ho),
        enableOff_starts (by exact hr) (by exact hc) hb (by exact hx)]
      exact congrArg (fun v => Host.Outcome.next (State.latchNotice (State.framed v .ok))) hstart

/-! ### The disable of a slot (R43, R155) -/

theorem foldl_form_unsupported (rs : List Request) (s : State) :
    rs.foldl (fun s r => s.form (answerOf r .unsupported)) s =
      { s with completions := s.completions ++ rs.map unsupported } := by
  induction rs generalizing s with
  | nil => simp
  | cons r rs ih =>
    rw [List.foldl_cons, ih, answerOf_eq]
    simp [State.form, unsupported]

theorem answerDisabledQueues_eq (s : State) (i : Slot) :
    s.answerDisabledQueues i = State.setQueues
      { s with completions := s.completions ++ (s.queued i).map unsupported } i Intake.empty := by
  unfold State.answerDisabledQueues
  rw [foldl_form_unsupported]
  rfl

/-- The last force result after a disable: a pending force ends with SLOT_OFF. -/
def SlotRecord.disabledResult (r : SlotRecord) : Option ResultCode :=
  if r.pendingForce = none then r.lastForce else some .slotOff

/-- The sticky bits after a disable. -/
def disabledSticky (r : SlotRecord) (sticky : BitVec 3) : BitVec 3 :=
  if r.pendingForce = none then sticky else sticky ||| 2#3

theorem endPending_eq (s : State) (i : Slot) (r : SlotRecord) :
    endPending (s.setSlot i r) i = State.setSlot
      { s with mgmt := { s.mgmt with sticky := disabledSticky r s.mgmt.sticky } } i
      { r with pendingForce := none, lastForce := r.disabledResult } := by
  unfold endPending disabledSticky SlotRecord.disabledResult
  rw [State.slot_setSlot]
  cases hp : r.pendingForce with
  | none =>
    dsimp only
    rw [if_pos rfl, if_pos rfl, ← hp]
  | some f =>
    dsimp only
    rw [if_neg (by simp), if_neg (by simp), State.setSlot_setSlot]
    unfold State.endForce
    rw [State.slot_setSlot, State.setSlot_setSlot]
    rfl

/-- The slot's requests answered and its pending force ended, its state and bindings still to go. -/
def State.emptied (s : State) (i : Slot) : State :=
  { s.setQueues i { regular := [], priority := [] } with
    mgmt := { s.mgmt with sticky := disabledSticky (s.slot i) s.mgmt.sticky }
    completions := s.completions ++ (s.queued i).map unsupported }

theorem disableSlot_eq (s : State) (i : Slot) {r : SlotRecord}
    (hr : r = { s.slot i with
      held := false, pendingForce := none, lastForce := (s.slot i).disabledResult }) :
    disableSlot s i =
      if (s.slot i).state.inSwitch then (s.emptied i).setSlot i { r with disableReq := true }
      else State.setSlot { s.emptied i with cache := s.withoutCommitted i, map := s.withoutBound i } i
        { r with binding := none, stack := [], disableReq := false, state := .off } := by
  have hu : endPending ((s.answerDisabledQueues i).setSlot i
      { (s.answerDisabledQueues i).slot i with held := false }) i = (s.emptied i).setSlot i r := by
    rw [endPending_eq, answerDisabledQueues_eq, hr]
    rfl
  have hstate : (s.slot i).state = r.state := by rw [hr]
  unfold disableSlot
  dsimp only
  rw [hu, State.slot_setSlot, State.setSlot_setSlot, hstate]
  refine if_congr Iff.rfl rfl ?_
  unfold completeDisable
  rw [State.slot_setSlot]
  exact State.setSlot_setSlot
    { s.emptied i with cache := s.withoutCommitted i, map := s.withoutBound i } i r _

/-- Settles O46: the disable completes at once in a slot at rest, and is requested in a switch. -/
theorem slotDisableEmptiesTheSlot : Obligations.SlotDisableEmptiesTheSlot := by
  intro s i off last hf h hlast hoff
  have hoff' : off = (s.enableWritten (s.enableWithout i)).emptied i := hoff
  have hrec : ({ s.slot i with held := false, pendingForce := none, lastForce := last } : SlotRecord) =
      { (s.enableWritten (s.enableWithout i)).slot i with
        held := false, pendingForce := none
        lastForce := ((s.enableWritten (s.enableWithout i)).slot i).disabledResult } := by
    rw [hlast]
    rfl
  have hdis := disableSlot_eq (s.enableWritten (s.enableWithout i)) i hrec
  refine ⟨fun hst => ?_, fun hst => ?_⟩ <;> rw [exec_slotDisable_set hf h, hdis, hoff']
  · have hin : ((s.enableWritten (s.enableWithout i)).slot i).state.inSwitch = false := by
      show (s.slot i).state.inSwitch = false
      rcases hst with h | h <;> rw [h] <;> rfl
    rw [if_neg (by simp [hin])]
    rfl
  · have hin : ((s.enableWritten (s.enableWithout i)).slot i).state.inSwitch = true := by
      show (s.slot i).state.inSwitch = true
      rcases hst with h | h | h | h | h | h <;> rw [h] <;> rfl
    rw [if_pos hin]

end Sys2Proof.Machine
end

section
/-! PROOFS. The rows of the management link: the response limit, the notice registers, the log, SLOT_INFO
and register writes by their index. -/

namespace Sys2Proof.Machine

/-! ### RESPONSE_LIMIT (R82, R184) -/

theorem dueFlight_iff (s : State) (f : Flight) :
    s.dueFlight f = true ↔
      s.mgmt.responseLimit ≠ 0 ∧ f.time + s.mgmt.responseLimit.toNat ≤ s.timer.now := by
  unfold State.dueFlight
  rw [Bool.and_eq_true, decide_eq_true_eq, decide_eq_true_eq]

theorem dueGranule_iff {s : State} {e : TrackerEntry} {p : MemPort} {id : IssueId} :
    s.dueGranule e = some (p, id) ↔
      ∃ f, e.flight = some f ∧ s.dueFlight f = true ∧ e.port = p ∧ f.id = id := by
  unfold State.dueGranule
  cases hf : e.flight with
  | none => simp
  | some f => by_cases hd : s.dueFlight f = true <;> simp [hd]

/-- The operations in flight whose age has reached the limit. -/
theorem mem_dueOps {s : State} {p : MemPort} {id : IssueId} :
    (p, id) ∈ s.dueOps ↔
      (∃ e ∈ s.tracker, ∃ f, e.flight = some f ∧ e.port = p ∧ f.id = id ∧ s.dueFlight f = true) ∨
        ∃ f, s.tfu.inFlight = some f ∧ p = .primary ∧ f.flight.id = id ∧
          s.dueFlight f.flight = true := by
  have htable : (p, id) ∈ ((s.tfu.inFlight.filter fun f => s.dueFlight f.flight).map fun f =>
      (MemPort.primary, f.flight.id)).toList ↔
      ∃ f, s.tfu.inFlight = some f ∧ p = .primary ∧ f.flight.id = id ∧
        s.dueFlight f.flight = true := by
    rw [Option.mem_toList, Option.map_eq_some_iff]
    constructor
    · rintro ⟨f, hf, heq⟩
      obtain ⟨hin, hdue⟩ := Option.filter_eq_some_iff.mp hf
      obtain ⟨rfl, rfl⟩ := Prod.mk.inj heq
      exact ⟨f, hin, rfl, rfl, hdue⟩
    · rintro ⟨f, hin, rfl, rfl, hdue⟩
      exact ⟨f, Option.filter_eq_some_iff.mpr ⟨hin, hdue⟩, rfl⟩
  unfold State.dueOps
  rw [List.mem_append, List.mem_filterMap, htable]
  refine or_congr (exists_congr fun e => and_congr_right fun _ => ?_) Iff.rfl
  rw [dueGranule_iff]
  exact exists_congr fun f =>
    ⟨fun ⟨h1, h2, h3, h4⟩ => ⟨h1, h3, h4, h2⟩, fun ⟨h1, h3, h4, h2⟩ => ⟨h1, h2, h3, h4⟩⟩

theorem responseLimitCommand_refused {s : State} {v : Word} (h : 4095 < v.toNat) :
    responseLimitCommand v s = (.refused, s) := by
  unfold responseLimitCommand
  rw [if_neg (Nat.not_le.mpr h)]

/-- A response limit written: the free order of the settlements spent. -/
def State.limitTaken (s : State) (v : Word) : State :=
  { s with
    mgmt := { s.mgmt with responseLimit := BitVec.ofNat 12 v.toNat }, freeCount := s.freeCount + 1 }

theorem responseLimitCommand_taken {s : State} {v : Word} (h : v.toNat ≤ 4095) :
    responseLimitCommand v s = (.ok,
      (freeOrder s.freeCount (s.limitTaken v).dueOps).foldl timeOut (s.limitTaken v)) := by
  unfold responseLimitCommand limitWritten State.limitTaken
  rw [if_pos h, BitVec.ofNat_toNat]
  rfl

theorem limitTaken_due {s : State} {v : Word} (h : v.toNat ≤ 4095) (f : Flight) :
    (s.limitTaken v).dueFlight f = true ↔ v.toNat ≠ 0 ∧ f.time + v.toNat ≤ s.timer.now := by
  have hval : (BitVec.ofNat 12 v.toNat).toNat = v.toNat := by
    rw [BitVec.toNat_ofNat, Nat.mod_eq_of_lt (by omega)]
  have hzero : BitVec.ofNat 12 v.toNat = 0 ↔ v.toNat = 0 := by
    rw [← BitVec.toNat_inj, hval]
    rfl
  rw [dueFlight_iff]
  show BitVec.ofNat 12 v.toNat ≠ 0 ∧ f.time + (BitVec.ofNat 12 v.toNat).toNat ≤ s.timer.now ↔ _
  rw [hval, ne_eq, hzero]

theorem mem_limitTaken_dueOps {s : State} {v : Word} (h : v.toNat ≤ 4095) (p : MemPort) (id : IssueId) :
    (p, id) ∈ (s.limitTaken v).dueOps ↔ v.toNat ≠ 0 ∧
      ((∃ e ∈ s.tracker, ∃ f, e.flight = some f ∧ e.port = p ∧ f.id = id ∧
          f.time + v.toNat ≤ s.timer.now) ∨
        ∃ f, s.tfu.inFlight = some f ∧ p = .primary ∧ f.flight.id = id ∧
          f.flight.time + v.toNat ≤ s.timer.now) := by
  rw [mem_dueOps]
  simp only [limitTaken_due h]
  constructor
  · rintro (⟨e, he, f, h1, h2, h3, h4, h5⟩ | ⟨f, h1, h2, h3, h4, h5⟩)
    · exact ⟨h4, Or.inl ⟨e, he, f, h1, h2, h3, h5⟩⟩
    · exact ⟨h4, Or.inr ⟨f, h1, h2, h3, h5⟩⟩
  · rintro ⟨h4, ⟨e, he, f, h1, h2, h3, h5⟩ | ⟨f, h1, h2, h3, h5⟩⟩
    · exact Or.inl ⟨e, he, f, h1, h2, h3, h4, h5⟩
    · exact Or.inr ⟨f, h1, h2, h3, h4, h5⟩

/-- Settles O47: the operations due under the new limit settle one after another. -/
theorem responseLimitIsJudgedAtTheWrite : Obligations.ResponseLimitIsJudgedAtTheWrite := by
  refine ⟨fun s v hf h => ?_, fun s v u hf h hu => ?taken, fun s p id f hin hl => ?_⟩
  · rw [exec_responseLimitWrite hf, responseLimitCommand_refused h]
    rfl
  case taken =>
    have hut : u = s.limitTaken v := hu
    subst hut
    clear hu
    have hexec : exec (.responseLimitWrite v) s = .next (State.framed
        ((freeOrder s.freeCount (s.limitTaken v).dueOps).foldl timeOut (s.limitTaken v))
          .ok).latchNotice := by
      rw [exec_responseLimitWrite hf, responseLimitCommand_taken h]
      rfl
    refine ⟨fun hnone => ?_, fun p id hone => ?_, mem_limitTaken_dueOps h,
      ⟨_, freeOrder_perm _ _, hexec⟩⟩
    · have hempty : (s.limitTaken v).dueOps = [] := by
        rw [List.eq_nil_iff_forall_not_mem]
        rintro ⟨p, id⟩ hmem
        obtain ⟨h0, hdue⟩ := (mem_limitTaken_dueOps h p id).mp hmem
        rcases hnone with hz | ⟨hg, ht⟩
        · exact h0 hz
        · rcases hdue with ⟨e, he, f, hfl, -, -, hle⟩ | ⟨f, hfl, -, -, hle⟩
          · exact absurd (hg e he f hfl) (Nat.not_lt.mpr hle)
          · exact absurd (ht f hfl) (Nat.not_lt.mpr hle)
      rw [hexec, hempty]
      rfl
    · rw [hexec, hone]
      rfl
  · obtain ⟨hnz, hreached, hcount⟩ := hl
    show finish (expire s p id) = _
    rw [expire_of_reached (flightOf_inFlight hin) hnz hreached hcount]
    rfl

/-! ### The notice registers (R175, R180, R181) -/

theorem noticeThresholdCommand_taken {s : State} {v : Word} (h1 : 1 ≤ v.toNat) (h2 : v.toNat ≤ 32) :
    noticeThresholdCommand v s = (.ok, { s with mgmt := { s.mgmt with threshold := v.toNat } }) := by
  unfold noticeThresholdCommand
  rw [if_pos ⟨h1, h2⟩]

theorem noticeThresholdCommand_refused {s : State} {v : Word} (h : v.toNat = 0 ∨ 32 < v.toNat) :
    noticeThresholdCommand v s = (.refused, s) := by
  unfold noticeThresholdCommand
  rw [if_neg (by omega)]

/-- Settles O48: each register by the write it takes. -/
theorem noticeRegistersAreWritten : Obligations.NoticeRegistersAreWritten := by
  intro s v hf
  refine ⟨?_, ?_, fun h1 h2 => ?_, fun h => ?_⟩
  · rw [exec_noticeStatusClear hf, BitVec.ofNat_toNat]
    rfl
  · rw [exec_noticeEnableWrite hf, BitVec.ofNat_toNat]
    rfl
  · rw [exec_noticeThresholdWrite hf, noticeThresholdCommand_taken h1 h2]
    rfl
  · rw [exec_noticeThresholdWrite hf, noticeThresholdCommand_refused h]
    rfl

/-! ### LOG_DATA (R177) -/

theorem wholeRead_log (s : State) : s.wholeRead 0x0F =
    { s with
      log := FaultLog.advance { s.log with dropped := false }
      link := { receiver := .complete, value := s.log.nextWord, status := some .ok } } := rfl

/-- The first three bytes of a LOG_DATA read take its word. -/
theorem clockFrame_logHeader (s : State) : clockFrame s [] 0 logHeader =
    { s with
      log := { s.log with dropped := false }
      link :=
        { receiver := .inFrame logHeader s.log.nextWord, value := s.log.nextWord
          status := none } } := rfl

/-- The other five end it. -/
theorem clockFrame_logRest (s : State) (v : Word) : clockFrame s logHeader v [0, 0, 0, 0, 0] =
    { s with
      log := s.log.advance
      link := { receiver := .complete, value := v, status := some .ok } } := rfl

theorem advance_of_empty {l : FaultLog} (h : l.records = []) : l.advance = l := by
  unfold FaultLog.advance
  rw [h]

theorem advance_of_word {l : FaultLog} {f : FaultRecord} {rest : List FaultRecord}
    (h : l.records = f :: rest) (hw : l.word ≠ 3) : l.advance = { l with word := l.word + 1 } := by
  unfold FaultLog.advance
  rw [h]
  dsimp only
  rw [if_neg hw]

theorem advance_of_last {l : FaultLog} {f : FaultRecord} {rest : List FaultRecord}
    (h : l.records = f :: rest) (hw : l.word = 3) :
    l.advance =
      { records := rest, overrun := l.overrun && l.dropped, word := 0, dropped := l.dropped } := by
  unfold FaultLog.advance
  rw [h]
  dsimp only
  rw [if_pos hw]

theorem nextWord_of_cons {l : FaultLog} {f : FaultRecord} {rest : List FaultRecord}
    (h : l.records = f :: rest) : l.nextWord = f.word l.overrun l.word := by
  unfold FaultLog.nextWord
  rw [h]

theorem nextWord_of_empty {l : FaultLog} (h : l.records = []) : l.nextWord = 0 := by
  unfold FaultLog.nextWord
  rw [h]

theorem exec_logDataRead_toByte3 {s : State} (h : TakesFrames s) :
    exec (.logDataRead .toByte3) s = .next (clockFrame s [] 0 logHeader).latchNotice := by
  show finish (readLog .toByte3 s) = _
  unfold readLog
  rw [h]
  rfl

theorem exec_logDataRead_byte7 {s : State} {v : Word} (h : s.link.receiver = .inFrame logHeader v) :
    exec (.logDataRead .byte7) s = .next (clockFrame s logHeader v [0, 0, 0, 0, 0]).latchNotice := by
  show finish (readLog .byte7 s) = _
  unfold readLog
  rw [h]
  dsimp only
  rw [if_pos rfl]
  rfl

/-- Settles O49: byte 3 of the read takes the word, and byte 7 moves the counter on or pops the record. -/
theorem logDataReadReturnsAndPops : Obligations.LogDataReadReturnsAndPops := by
  refine ⟨fun s f rest v hf hrec hv => ?whole, fun s f rest v hin hrec => ?byte7, fun s v hin hrec => ?_,
    fun s hf hrec => ?empty, fun s hf => ?_⟩
  case whole =>
    have hval : s.log.nextWord = v := (nextWord_of_cons hrec).trans hv.symm
    rw [exec_logDataRead_whole hf, wholeRead_log, exec_logDataRead_toByte3 hf, clockFrame_logHeader, hval]
    refine ⟨fun hw => ?_, fun hw => ?_, rfl⟩
    · rw [advance_of_word (l := { s.log with dropped := false }) hrec hw]
    · rw [advance_of_last (l := { s.log with dropped := false }) hrec hw, Bool.and_false]
  case byte7 =>
    rw [exec_logDataRead_byte7 hin, clockFrame_logRest]
    refine ⟨fun hw => ?_, fun hw => ?_⟩
    · rw [advance_of_word hrec hw]
    · rw [advance_of_last hrec hw]
  · rw [exec_logDataRead_byte7 hin, clockFrame_logRest, advance_of_empty hrec]
  case empty =>
    rw [exec_logDataRead_whole hf, wholeRead_log, exec_logDataRead_toByte3 hf, clockFrame_logHeader,
      nextWord_of_empty hrec, advance_of_empty (l := { s.log with dropped := false }) hrec]
    exact ⟨rfl, rfl⟩
  · rw [exec_logRestart hf]
    rfl

end Sys2Proof.Machine
end

section
/-! PROOFS. Reads of SLOT_INFO, and register writes judged by their index. -/

namespace Sys2Proof.Machine

/-! ### The fields of a word -/

/-- A field above the lower part of a word. -/
theorem extract_above {n m k j : Nat} {x : BitVec n} {y : BitVec m} (h : m ≤ k) {z : BitVec j}
    (hz : x.extractLsb' (k - m) j = z) : (x ++ y).extractLsb' k j = z :=
  (BitVec.extractLsb'_append_eq_of_le h).trans hz

theorem bit_above {n m k : Nat} {x : BitVec n} {y : BitVec m} (h : m ≤ k) {b : Bool}
    (hb : x.getLsbD (k - m) = b) : (x ++ y).getLsbD k = b := by
  rw [BitVec.getLsbD_append, if_neg (Nat.not_lt.mpr h), hb]

theorem bit_below {n m k : Nat} {x : BitVec n} {y : BitVec m} (h : k < m) {b : Bool}
    (hb : y.getLsbD k = b) : (x ++ y).getLsbD k = b := by
  rw [BitVec.getLsbD_append, if_pos h, hb]

theorem ofBool_bit (b : Bool) : (BitVec.ofBool b).getLsbD 0 = b := by
  cases b <;> rfl

/-! ### SLOT_INFO (R179, 12.5) -/

/-- The fields of the first word of SLOT_INFO stand at their places. -/
theorem infoWord_fields {lf : Byte} {depth code : BitVec 4} {level : BitVec 2} {bound : Bool} {w : Word}
    (h : w = 0#8 ++ lf ++ 0#4 ++ depth ++ 0#1 ++ level ++ BitVec.ofBool bound ++ code) :
    w.extractLsb' 0 4 = code ∧ w.getLsbD 4 = bound ∧ w.extractLsb' 5 2 = level ∧
      w.getLsbD 7 = false ∧ w.extractLsb' 8 4 = depth ∧ w.extractLsb' 12 4 = 0 ∧
      w.extractLsb' 16 8 = lf ∧ w.extractLsb' 24 8 = 0 := by
  subst h
  refine ⟨BitVec.extractLsb'_append_eq_right, ?bound, ?level, ?gap, ?depth, ?zero, ?last, ?top⟩
  case bound => exact bit_above (by decide) (bit_below (by decide) (ofBool_bit bound))
  case level =>
    exact extract_above (by decide) (extract_above (by decide) BitVec.extractLsb'_append_eq_right)
  case gap =>
    exact bit_above (by decide) (bit_above (by decide) (bit_above (by decide)
      (bit_below (by decide) rfl)))
  case depth =>
    exact extract_above (by decide) (extract_above (by decide) (extract_above (by decide)
      (extract_above (by decide) BitVec.extractLsb'_append_eq_right)))
  case zero =>
    exact extract_above (by decide) (extract_above (by decide) (extract_above (by decide)
      (extract_above (by decide) (extract_above (by decide) BitVec.extractLsb'_append_eq_right))))
  case last =>
    exact extract_above (by decide) (extract_above (by decide) (extract_above (by decide)
      (extract_above (by decide) (extract_above (by decide) (extract_above (by decide)
        BitVec.extractLsb'_append_eq_right)))))
  case top =>
    exact extract_above (by decide) (extract_above (by decide) (extract_above (by decide)
      (extract_above (by decide) (extract_above (by decide) (extract_above (by decide)
        BitVec.extractLsb'_append_eq_left)))))

/-- The other words of the snapshot of a slot with a binding. -/
theorem snapshot_of_bound {r : SlotRecord} {b : Binding} (h : r.binding = some b) :
    r.snapshot.word0 = 0#8 ++ lastForceCode r.lastForce ++ 0#4 ++ BitVec.ofNat 4 r.stack.length ++ 0#1 ++
        BitVec.ofFin (w := 2) b.level ++ BitVec.ofBool true ++ r.state.code ∧
      r.snapshot.word1 = b.record.extractLsb' 0 32 ∧
      r.snapshot.word2 = BitVec.ofNat 24 b.remaining ++ b.record.extractLsb' 32 8 ∧
      r.snapshot.word3 = BitVec.ofNat 32 b.denials := by
  unfold SlotRecord.snapshot
  rw [h]
  exact ⟨rfl, rfl, rfl, rfl⟩

theorem snapshot_of_unbound {r : SlotRecord} (h : r.binding = none) :
    r.snapshot.word0 = 0#8 ++ lastForceCode r.lastForce ++ 0#4 ++ BitVec.ofNat 4 r.stack.length ++ 0#1 ++
        0#2 ++ BitVec.ofBool false ++ r.state.code ∧
      r.snapshot.word1 = 0 ∧ r.snapshot.word2 = 0 ∧ r.snapshot.word3 = 0 := by
  unfold SlotRecord.snapshot
  rw [h]
  exact ⟨rfl, rfl, rfl, rfl⟩

/-- A read of SLOT_INFO word 0 takes its snapshot; one of another word leaves it. -/
theorem wholeRead_info (s : State) : s.wholeRead 0x0A =
    { s with
      mgmt := { s.mgmt with snapshot := s.selectedSnapshot }
      link := { receiver := .complete, value := s.selectedSnapshot.word0, status := some .ok } } := rfl

/-- Settles O50: the snapshot of the selected slot, by its binding. -/
theorem slotInfoShowsTheSnapshot : Obligations.SlotInfoShowsTheSnapshot := by
  refine ⟨fun s i hf hi => ⟨s.selectedSnapshot, ?_, ?_⟩, fun s n hf hn => ?other⟩
  · rw [exec_slotInfoRead hf]
    exact congrArg (fun t => Host.Outcome.next (State.latchNotice t)) (wholeRead_info s)
  · have hsnap : s.selectedSnapshot = (s.slot i).snapshot := by
      rw [← hi]
      rfl
    rw [hsnap]
    cases hb : (s.slot i).binding with
    | some b =>
      obtain ⟨h0, h1, h2, h3⟩ := snapshot_of_bound hb
      obtain ⟨hcode, hbound, hlevel, hgap, hdepth, hzero, hlast, htop⟩ := infoWord_fields h0
      refine ⟨hcode, hdepth, hlast, hgap, hzero, htop, fun b' hb' => ?_, fun h => by simp at h⟩
      obtain rfl := Option.some.inj hb'
      rw [h2]
      exact ⟨hbound, by rw [hlevel]; rfl, h1, BitVec.extractLsb'_append_eq_right,
        BitVec.extractLsb'_append_eq_left, h3⟩
    | none =>
      obtain ⟨h0, h1, h2, h3⟩ := snapshot_of_unbound hb
      obtain ⟨hcode, hbound, hlevel, hgap, hdepth, hzero, hlast, htop⟩ := infoWord_fields h0
      exact ⟨hcode, hdepth, hlast, hgap, hzero, htop, fun b' hb' => by simp at hb',
        fun _ => ⟨hbound, hlevel, h1, h2, h3⟩⟩
  case other =>
    rw [exec_slotInfoRead hf]
    match n, hn with
    | 1, _ => rfl
    | 2, _ => rfl
    | 3, _ => rfl

/-! ### Register writes by their index (R174, R175) -/

theorem registerWritten_readOnly {n : BitVec 16}
    (h : n ∈ [0#16, 1#16, 10#16, 11#16, 12#16, 13#16, 14#16, 15#16]) (v : Word) (s : State) :
    registerWritten n v s = (.refused, s) := by
  simp only [List.mem_cons, List.not_mem_nil, or_false] at h
  rcases h with rfl | rfl | rfl | rfl | rfl | rfl | rfl | rfl <;> rfl

theorem registerWritten_badIndex {n : BitVec 16} (h : 18 < n.toNat) (v : Word) (s : State) :
    registerWritten n v s = (.badIndex, s) := by
  obtain ⟨k, hk⟩ : ∃ k, n.toNat = k + 19 := ⟨n.toNat - 19, by omega⟩
  unfold registerWritten
  rw [hk]
  rfl

theorem low_toNat {w : Nat} (v : BitVec w) (n : Nat) : (v.extractLsb' 0 n).toNat = v.toNat % 2 ^ n := by
  rw [BitVec.extractLsb'_toNat, Nat.shiftRight_zero]

/-- What a COMMAND code commands. -/
def commandOf (code : Nat) (s : State) : FrameStatus × State :=
  match code with
  | 1 => startCommand s
  | 2 => resetCommand s
  | 3 => quiesceCommand s
  | 4 => resumeCommand s
  | 5 => logRestartCommand s
  | _ => (.refused, s)

theorem commandWritten_eq {v : Word} {code : Nat} (h : v.toNat % 256 = code) (s : State) :
    commandWritten v s = commandOf code s := by
  have hcode : (v.extractLsb' 0 8).toNat = code := (low_toNat v 8).trans h
  unfold commandWritten commandOf
  rw [hcode] <;> rfl

theorem commandWritten_refused {v : Word} (h : v.toNat % 256 = 0 ∨ 5 < v.toNat % 256) (s : State) :
    commandWritten v s = (.refused, s) := by
  rcases h with h | h
  · exact commandWritten_eq h s
  · obtain ⟨k, hk⟩ : ∃ k, v.toNat % 256 = k + 6 := ⟨v.toNat % 256 - 6, by omega⟩
    exact commandWritten_eq hk s

/-- A COMMAND code that names a command does what its row does. -/
theorem exec_command {s : State} (hf : TakesFrames s) {v : Word} {code : Nat}
    (h : v.toNat % 256 = code) : exec (.registerWrite 4#16 v) s = answered (commandOf code s) := by
  rw [exec_registerWrite hf]
  exact congrArg answered (commandWritten_eq h s)

theorem slotSelectCommand_taken {v : Word} {i : Slot} (h : v.toNat = i.val) (s : State) :
    slotSelectCommand v s = (.ok, { s with mgmt := { s.mgmt with slotSelect := i } }) := by
  have hlt : v.toNat < 16 := by rw [h]; exact i.isLt
  unfold slotSelectCommand
  rw [dif_pos hlt]
  simp only [h, Fin.eta]

theorem slotSelectCommand_refused {v : Word} (h : 15 < v.toNat) (s : State) :
    slotSelectCommand v s = (.refused, s) := by
  unfold slotSelectCommand
  rw [dif_neg (by omega)]

theorem slotField_eq {v : Word} {i : Slot} (h : i.val = v.toNat % 16) : slotField v = i := by
  apply Fin.ext
  rw [h]
  exact low_toNat v 4

/-- A write of FORCE of a kind that names one. -/
theorem forceWritten_call {v : Word} {i : Slot} {group entry : Byte} (hi : i.val = v.toNat % 16)
    (hk : v.toNat / 16 % 16 = 1) (hg : group.toNat = v.toNat / 256 % 256)
    (he : entry.toNat = v.toNat / 65536 % 256) (s : State) :
    forceWritten v s = forceCommand i (.call { group := group, entry := entry }) s := by
  have hkind : (v.extractLsb' 4 4).toNat = 1 := by
    rw [BitVec.extractLsb'_toNat, Nat.shiftRight_eq_div_pow]
    exact hk
  have hgroup : v.extractLsb' 8 8 = group := by
    apply BitVec.eq_of_toNat_eq
    rw [BitVec.extractLsb'_toNat, Nat.shiftRight_eq_div_pow, hg]
  have hentry : v.extractLsb' 16 8 = entry := by
    apply BitVec.eq_of_toNat_eq
    rw [BitVec.extractLsb'_toNat, Nat.shiftRight_eq_div_pow, he]
  unfold forceWritten
  rw [hkind, hgroup, hentry, slotField_eq hi]
  rfl

theorem forceWritten_rebind {v : Word} {i : Slot} (hi : i.val = v.toNat % 16)
    (hk : v.toNat / 16 % 16 = 2) (s : State) : forceWritten v s = forceCommand i .rebind s := by
  have hkind : (v.extractLsb' 4 4).toNat = 2 := by
    rw [BitVec.extractLsb'_toNat, Nat.shiftRight_eq_div_pow]
    exact hk
  unfold forceWritten
  rw [hkind, slotField_eq hi]
  rfl

/-- Settles O51: each index by the register it names, and SLOT_ENABLE by the bits that change. -/
theorem registerWriteIsJudgedByItsIndex : Obligations.RegisterWriteIsJudgedByItsIndex := by
  intro s n v hf
  refine ⟨fun h => ?readOnly, fun h => ?badIndex, exec_registerWrite hf _ v, ?rootHigh, fun h => ?none,
    fun i h => ?select, fun h => ?noSlot, fun h => ?start, fun h => ?reset, fun h => ?quiesce,
    fun h => ?resume, fun h => ?logRestart, rfl, fun i hi => ⟨fun group entry hk hg he => ?call,
      fun hk => ?rebind, ?cancel⟩, rfl, rfl, rfl,
    fun w hw => ⟨fun i hset => ?oneSet, fun i hclear => ?oneClear, ?several⟩,
    fun i => ⟨exec_slotEnable_clear hf, exec_slotDisable_set hf⟩⟩
  case readOnly =>
    rw [exec_registerWrite hf, registerWritten_readOnly h]
    rfl
  case badIndex =>
    rw [exec_registerWrite hf, registerWritten_badIndex h]
    rfl
  case rootHigh =>
    rw [BitVec.ofNat_toNat]
    exact exec_registerWrite hf _ v
  case none =>
    rw [exec_registerWrite hf]
    exact congrArg answered (commandWritten_refused h s)
  case select =>
    rw [exec_registerWrite hf]
    exact congrArg answered (slotSelectCommand_taken h s)
  case noSlot =>
    rw [exec_registerWrite hf]
    exact congrArg answered (slotSelectCommand_refused h s)
  case start => exact (exec_command hf h).trans (exec_start hf).symm
  case reset => exact (exec_command hf h).trans (exec_reset hf).symm
  case quiesce => exact (exec_command hf h).trans (exec_quiesce hf).symm
  case resume => exact (exec_command hf h).trans (exec_resume hf).symm
  case logRestart => exact (exec_command hf h).trans (exec_logRestart hf).symm
  case call =>
    rw [exec_registerWrite hf, exec_forceCall hf]
    exact congrArg answered (forceWritten_call hi hk hg he s)
  case rebind =>
    rw [exec_registerWrite hf, exec_forceRebind hf]
    exact congrArg answered (forceWritten_rebind hi hk s)
  case cancel =>
    rw [exec_registerWrite hf, exec_cancel hf, ← slotField_eq hi]
    rfl
  all_goals
    rw [BitVec.ofNat_toNat] at hw
    have hwrite : exec (.registerWrite 5#16 v) s = answered (slotEnableCommand w s) := by
      rw [exec_registerWrite hf, hw]
      rfl
    rw [hwrite]
  case oneSet => rw [exec_slotEnable hf, hset]; rfl
  case oneClear => rw [exec_slotDisable hf, hclear]; rfl
  case several =>
    have hperm := freeOrder_perm s.freeCount (s.changedSlots w)
    refine ⟨_, hperm.nodup_iff.mpr (changedSlots_nodup s w), fun i => ?_, rfl⟩
    rw [hperm.mem_iff, mem_changedSlots]

end Sys2Proof.Machine
end

section
/-! PROOFS. Frames by their bytes, bounded by chip select. -/

namespace Sys2Proof.Machine

/-! ### Reads of a register without a side effect -/

theorem readTaken_of_plain {n : BitVec 16} (h1 : n ≠ 0x0A#16) (h2 : n ≠ 0x0F#16) (s : State) :
    readTaken n s = s := by
  unfold readTaken
  split
  next h => exact absurd (BitVec.eq_of_toNat_eq h) h1
  next h => exact absurd (BitVec.eq_of_toNat_eq h) h2
  next => rfl

theorem readEnded_of_plain {n : BitVec 16} {v : Word} {s : State} (hv : s.readRegister n = some v)
    (h2 : n ≠ 0x0F#16) : readEnded n s = (.ok, s) := by
  have hn : n.toNat ≠ 0x0F := fun h => h2 (BitVec.eq_of_toNat_eq h)
  unfold readEnded
  rw [hv]
  dsimp only
  rw [if_neg hn]

/-- An index above 12h names no register. -/
theorem readRegister_of_large {n : BitVec 16} (h : 18 < n.toNat) (s : State) :
    s.readRegister n = none := by
  obtain ⟨k, hk⟩ : ∃ k, n.toNat = k + 19 := ⟨n.toNat - 19, by omega⟩
  unfold State.readRegister
  rw [hk]
  rfl

theorem ne_of_large {n : BitVec 16} (h : 18 < n.toNat) : n ≠ 0x0A#16 ∧ n ≠ 0x0F#16 := by
  constructor <;>
    · rintro rfl
      exact absurd h (by decide)

theorem wholeRead_of_plain {n : BitVec 16} {v : Word} {s : State} (hv : s.readRegister n = some v)
    (h1 : n ≠ 0x0A#16) (h2 : n ≠ 0x0F#16) :
    s.wholeRead n =
      { s with link := { receiver := .complete, value := v, status := some .ok } } := by
  unfold State.wholeRead
  rw [readTaken_of_plain h1 h2, readEnded_of_plain hv h2, hv]
  rfl

theorem wholeRead_of_large {n : BitVec 16} (h : 18 < n.toNat) (s : State) :
    s.wholeRead n =
      { s with link := { receiver := .complete, value := 0, status := some .badIndex } } := by
  obtain ⟨h1, h2⟩ := ne_of_large h
  have hend : readEnded n s = (.badIndex, s) := by
    unfold readEnded
    rw [readRegister_of_large h]
  unfold State.wholeRead
  rw [readTaken_of_plain h1 h2, hend, readRegister_of_large h]
  rfl

/-! ### Frames cut short -/

/-- Before byte 3 of any frame, and before byte 7 of a write, nothing is taken. -/
theorem clockFrame_of_short {bytes : List Byte}
    (h : bytes.length < 3 ∨ (bytes.head? = some 0x5C#8 ∧ bytes.length < 7)) (s : State) :
    clockFrame s [] 0 bytes =
      { s with link := { receiver := .inFrame bytes 0, value := 0, status := none } } := by
  have h7 : ¬(([] : List Byte).length < 7 ∧ 7 ≤ bytes.length) := by
    rintro ⟨-, hle⟩
    omega
  have h8 : ¬8 ≤ bytes.length := by omega
  have h3 : (if ([] : List Byte).length < 3 ∧ 3 ≤ bytes.length then atByte3 bytes s else (s, 0)) =
      (s, 0) := by
    split
    next hle =>
      have hhead : bytes.head? = some 0x5C#8 := (h.resolve_left (by omega)).1
      unfold atByte3
      rw [hhead, if_neg (by decide)]
    next => rfl
  unfold clockFrame
  simp only [List.nil_append]
  rw [h3, if_neg h7, if_neg h8]

/-! ### Frames that come while another is open (R178) -/

/-- The commands that are frames, but for the parts of a LOG_DATA read, clock a whole frame, whose bytes do
not depend on the link. -/
theorem exec_wholeFrame {c : Instr} (h : IsFrame c) (h3 : c ≠ .logDataRead .toByte3)
    (h7 : c ≠ .logDataRead .byte7) (s : State) :
    ∃ bs, ∀ l : Link, exec c { s with link := l } = finish (wholeFrame bs { s with link := l }) := by
  cases c with
  | logDataRead x =>
    cases x with
    | whole => exact ⟨_, fun _ => rfl⟩
    | toByte3 => exact absurd rfl h3
    | byte7 => exact absurd rfl h7
  | requestArrival | decodeAttempt | completionSend | auxPortIssue | primaryPortIssue
  | responseArrival | responseLimitExpiry | epochExpiry | resetInput | resetInputRelease
  | powerOnReset | chipSelectHigh => exact False.elim h
  | slotEnable i => exact ⟨writeFrame 0x05 (0#16 ++ s.enableWith i), fun _ => rfl⟩
  | slotDisable i => exact ⟨writeFrame 0x05 (0#16 ++ s.enableWithout i), fun _ => rfl⟩
  | start | reset | quiesce | resume | logRestart | forceCall | forceRebind | cancel
  | responseLimitWrite | noticeStatusClear | noticeEnableWrite | noticeThresholdWrite
  | slotInfoRead | registerWrite | badCommandByte => exact ⟨_, fun _ => rfl⟩

/-- A receiver that takes no frame ignores them. -/
theorem exec_frame_of_deaf {c : Instr} (h : IsFrame c) {s : State}
    (hr : s.link.receiver = .complete ∨ s.link.receiver = .awaitDeselect) :
    exec c s = .next s.latchNotice := by
  have hlog : ∀ x, readLog x s = s := by
    intro x
    unfold readLog
    cases x with
    | whole => exact wholeFrame_of_deaf hr (readFrame 0x0F)
    | toByte3 => rcases hr with hr | hr <;> rw [hr]
    | byte7 => rcases hr with hr | hr <;> rw [hr]
  by_cases h3 : c = .logDataRead .toByte3
  · subst h3
    show finish (readLog _ s) = _
    rw [hlog]
    rfl
  · by_cases h7 : c = .logDataRead .byte7
    · subst h7
      show finish (readLog _ s) = _
      rw [hlog]
      rfl
    · obtain ⟨bs, hbs⟩ := exec_wholeFrame h h3 h7 s
      have hexec : exec c s = finish (wholeFrame bs s) := hbs s.link
      rw [hexec, wholeFrame_of_deaf hr]
      rfl

/-- A frame inside an open one does what it does at the boundary, the open one staying as it was. -/
theorem exec_frame_inside {c : Instr} (h : IsFrame c) (h3 : c ≠ .logDataRead .toByte3)
    (h7 : c ≠ .logDataRead .byte7) {s t : State} {f : List Byte} {v : Word}
    (hr : s.link.receiver = .inFrame f v)
    (ht : exec c { s with link := { s.link with receiver := .boundary } } = .next t) :
    exec c s = .next { t with link := { t.link with receiver := .inFrame f v } }.latchNotice := by
  obtain ⟨bs, hbs⟩ := exec_wholeFrame h h3 h7 s
  have hexec : exec c s = finish (wholeFrame bs s) := hbs s.link
  have hat : wholeFrame bs (deselect s) = clockFrame (deselect s) [] 0 bs := rfl
  have hboundary : (wholeFrame bs (deselect s)).latchNotice = t :=
    Host.Outcome.next.inj ((hbs { s.link with receiver := .boundary }).symm.trans ht)
  have hinside : wholeFrame bs s =
      { wholeFrame bs (deselect s) with
        link := { (wholeFrame bs (deselect s)).link with receiver := .inFrame f v } } := by
    rw [hat]
    unfold wholeFrame
    rw [hr]
  rw [hexec, hinside, ← hboundary]
  rfl

/-! ### What the device drives (R172) -/

theorem drives_value (l : Link) : ∃ b4 b5 b6 b7 : Byte, l.drives 4 = some b4 ∧ l.drives 5 = some b5 ∧
    l.drives 6 = some b6 ∧ l.drives 7 = some b7 ∧ b4 ++ b5 ++ b6 ++ b7 = l.value :=
  ⟨_, _, _, _, rfl, rfl, rfl, rfl, frameValue_writeFrame 0 l.value⟩

theorem drives_status (l : Link) : l.drives 8 = l.status.map FrameStatus.code := rfl

theorem drives_after {n : Nat} (h : 8 < n) (l : Link) : l.drives n = some 0x00#8 := by
  obtain ⟨k, rfl⟩ : ∃ k, n = k + 9 := ⟨n - 9, by omega⟩
  rfl

theorem drives_before {n : Nat} (h : n < 4) (l : Link) : l.drives n = none := by
  interval_cases n <;> rfl

/-- Settles O52: each frame by the bytes that came before chip select went high. -/
theorem framesAreBoundedByChipSelect : Obligations.FramesAreBoundedByChipSelect := by
  refine ⟨fun s b hf h1 h2 => exec_badCommandByte hf h1 h2, fun s => rfl,
    fun s n more c hf hm hc => ?read, fun s n part c hf hp hc => ?cut,
    fun s t n v more hf ht => ?write, fun s bytes hf hne hs => ?short,
    fun s c h hr => exec_frame_of_deaf h hr,
    fun s t c f v h h3 h7 hr ht => exec_frame_inside h h3 h7 hr ht,
    fun l => ⟨drives_value l, fun h => ?_, fun h => ?_, fun h => ?_, fun h => ?_, fun h => ?_,
      fun n h => drives_after h l, fun n h => drives_before h l⟩⟩
  case read =>
    have hexec := hc ▸ exec_readFrame hf n hm
    refine ⟨fun v hv h1 h2 => ?_, fun h => ?_, fun hn t ht => ?_, fun hn t ht => ?_⟩ <;> rw [hexec]
    · rw [wholeRead_of_plain hv h1 h2]
    · rw [wholeRead_of_large h]
    · rw [exec_slotInfoRead hf] at ht
      obtain rfl := Host.Outcome.next.inj ht
      subst hn
      rfl
    · rw [exec_logDataRead_whole hf] at ht
      obtain rfl := Host.Outcome.next.inj ht
      subst hn
      rfl
  case cut =>
    have hexec := hc ▸ exec_readFrame_cut hf n hp
    refine ⟨fun v hv h1 h2 => ?_, fun h => ?_, fun hn t ht => ?_, fun hn t ht => ?_⟩ <;> rw [hexec]
    · rw [readTaken_of_plain h1 h2, hv]
      rfl
    · obtain ⟨h1, h2⟩ := ne_of_large h
      rw [readTaken_of_plain h1 h2, readRegister_of_large h]
      rfl
    · rw [exec_slotInfoRead hf] at ht
      obtain rfl := Host.Outcome.next.inj ht
      subst hn
      rfl
    · rw [exec_logDataRead_toByte3 hf] at ht
      obtain rfl := Host.Outcome.next.inj ht
      subst hn
      rfl
  case write =>
    rw [exec_registerWrite hf] at ht
    obtain rfl := Host.Outcome.next.inj ht
    rw [exec_writeFrame hf]
    rfl
  case short =>
    rw [exec_chipSelectHigh hf hne, clockFrame_of_short hs]
    rfl
  all_goals
    rw [drives_status, h]
    rfl

end Sys2Proof.Machine
end

section
/-! PROOFS. The encodings of chapter 12, and the invariants of the reset state. -/

namespace Sys2Proof.Machine

/-! ### Words put together of fields -/

theorem ofFin_eq_ofNat {w : Nat} (x : Fin (2 ^ w)) : BitVec.ofFin x = BitVec.ofNat w x.val := by
  apply BitVec.eq_of_toNat_eq
  rw [BitVec.toNat_ofFin, BitVec.toNat_ofNat, Nat.mod_eq_of_lt x.isLt]

/-- An address of a multiple of 64 has its low six bits clear. -/
theorem low_six_of_aligned {a : Addr} (h : a.toNat % 64 = 0) : a.extractLsb' 0 6 = 0#6 := by
  apply BitVec.eq_of_toNat_eq
  rw [low_toNat]
  exact h

/-! ### The words of a fault record (12.4) -/

section
variable (f : FaultRecord) (lost : Bool)

theorem word_zero_fields :
    (f.word lost 0).extractLsb' 0 4 = f.kind.code ∧
      (f.word lost 0).extractLsb' 4 4 = BitVec.ofFin (w := 4) f.slot ∧
      (f.word lost 0).extractLsb' 8 4 = f.marks ∧
      (f.word lost 0).extractLsb' 12 20 = (addrOrZero f.context).extractLsb' 6 20 :=
  ⟨BitVec.extractLsb'_append_eq_right,
    extract_above (by decide) BitVec.extractLsb'_append_eq_right,
    extract_above (by decide) (extract_above (by decide) BitVec.extractLsb'_append_eq_right),
    extract_above (by decide) (extract_above (by decide) BitVec.extractLsb'_append_eq_left)⟩

theorem word_zero_marks :
    (f.word lost 0).getLsbD 8 = f.context.isSome ∧ (f.word lost 0).getLsbD 9 = f.request.isSome ∧
      (f.word lost 0).getLsbD 10 = f.target.isSome ∧ (f.word lost 0).getLsbD 11 = f.detail.isSome := by
  refine ⟨?_, ?_, ?_, ?_⟩ <;>
    refine bit_above (by decide) (bit_above (by decide) (bit_below (by decide) ?_))
  · exact bit_below (by decide) (ofBool_bit _)
  · exact bit_above (by decide) (bit_below (by decide) (ofBool_bit _))
  · exact bit_above (by decide) (bit_above (by decide) (bit_below (by decide) (ofBool_bit _)))
  · exact bit_above (by decide) (bit_above (by decide) (bit_above (by decide) (ofBool_bit _)))

theorem word_one_fields :
    (f.word lost 1).extractLsb' 0 14 = (addrOrZero f.context).extractLsb' 26 14 ∧
      (f.word lost 1).extractLsb' 14 18 = (addrOrZero f.request).extractLsb' 0 18 :=
  ⟨BitVec.extractLsb'_append_eq_right, BitVec.extractLsb'_append_eq_left⟩

theorem word_two_fields :
    (f.word lost 2).extractLsb' 0 22 = (addrOrZero f.request).extractLsb' 18 22 ∧
      (f.word lost 2).extractLsb' 22 10 = f.sharedBits :=
  ⟨BitVec.extractLsb'_append_eq_right, BitVec.extractLsb'_append_eq_left⟩

theorem word_three_fields :
    (f.word lost 3).extractLsb' 0 30 = (addrOrZero f.target).extractLsb' 10 30 ∧
      (f.word lost 3).getLsbD 30 = false ∧ (f.word lost 3).getLsbD 31 = lost :=
  ⟨BitVec.extractLsb'_append_eq_right, bit_above (by decide) (bit_below (by decide) rfl),
    bit_above (by decide) (bit_above (by decide) (ofBool_bit lost))⟩

end

/-- The marks of a record with its three addresses and no detail. -/
theorem marks_of_addresses {f : FaultRecord} (hd : f.detail.isSome = false)
    (ht : f.target.isSome = true) (hr : f.request.isSome = true) (hc : f.context.isSome = true) :
    f.marks = 0x7#4 := by
  unfold FaultRecord.marks
  rw [hd, ht, hr, hc]
  decide

/-- A record's context, request and target stand in parts that join to their addresses. -/
theorem word_addresses (k : FaultKind) (i : Slot) (c r t : Addr) (lost : Bool) (hc : c.toNat % 64 = 0)
    {f : FaultRecord}
    (hf : f =
      { kind := k, slot := i, context := some c, request := some r, target := some t, detail := none }) :
    ((f.word lost 1).extractLsb' 0 14 ++ (f.word lost 0).extractLsb' 12 20) ++ 0#6 = c ∧
      (f.word lost 2).extractLsb' 0 22 ++ (f.word lost 1).extractLsb' 14 18 = r ∧
      (f.word lost 3).extractLsb' 0 30 ++ (f.word lost 2).extractLsb' 22 10 = t := by
  obtain ⟨-, -, -, hctxlow⟩ := word_zero_fields f lost
  obtain ⟨hctxhigh, hreqlow⟩ := word_one_fields f lost
  obtain ⟨hreqhigh, htgtlow⟩ := word_two_fields f lost
  obtain ⟨htgthigh, -, -⟩ := word_three_fields f lost
  rw [hctxlow, hctxhigh, hreqlow, hreqhigh, htgtlow, htgthigh]
  subst hf
  refine ⟨?_, ?_, ?_⟩
  · show (c.extractLsb' 26 14 ++ c.extractLsb' 6 20) ++ 0#6 = c
    rw [← low_six_of_aligned hc, extract_append (k := 6) (m := 14) (n := 20),
      extract_append (k := 0) (m := 34) (n := 6)]
    exact BitVec.extractLsb'_eq_self
  · exact (extract_append (k := 0) (m := 22) (n := 18) r).trans BitVec.extractLsb'_eq_self
  · exact (extract_append (k := 0) (m := 30) (n := 10) t).trans BitVec.extractLsb'_eq_self

theorem sharedBits_of_detail {f : FaultRecord} {d : Detail} (ht : f.target = none)
    (hd : f.detail = some d) : f.sharedBits = 0#2 ++ d.code := by
  unfold FaultRecord.sharedBits
  rw [ht, hd]
  exact BitVec.setWidth_eq_append (by decide)

theorem sharedBits_of_none {f : FaultRecord} (ht : f.target = none) (hd : f.detail = none) :
    f.sharedBits = 0#10 := by
  unfold FaultRecord.sharedBits
  rw [ht, hd]
  rfl

theorem addrOrZero_none {a : Option Addr} (h : a = none) (k n : Nat) :
    (addrOrZero a).extractLsb' k n = 0#n := by
  rw [h]
  exact BitVec.extractLsb'_zero

/-- The fields of the record of any fault, an absent one reading 0. -/
theorem word_fields {f : FaultRecord} (lost : Bool) (hf : f.target = none ∨ f.detail = none) :
    (f.word lost 0).extractLsb' 0 4 = f.kind.code ∧
    ((f.word lost 0).extractLsb' 4 4).toNat = f.slot.val ∧
    (f.word lost 0).getLsbD 8 = f.context.isSome ∧ (f.word lost 0).getLsbD 9 = f.request.isSome ∧
    (f.word lost 0).getLsbD 10 = f.target.isSome ∧ (f.word lost 0).getLsbD 11 = f.detail.isSome ∧
    (f.context = none →
      (f.word lost 1).extractLsb' 0 14 = 0 ∧ (f.word lost 0).extractLsb' 12 20 = 0) ∧
    (f.request = none →
      (f.word lost 2).extractLsb' 0 22 = 0 ∧ (f.word lost 1).extractLsb' 14 18 = 0) ∧
    (f.target = none → (f.word lost 3).extractLsb' 0 30 = 0) ∧
    (f.target = none → f.detail = none → (f.word lost 2).extractLsb' 22 10 = 0) ∧
    (∀ d, f.detail = some d →
      (f.word lost 2).extractLsb' 22 8 = d.code ∧ (f.word lost 2).extractLsb' 30 2 = 0) ∧
    (f.word lost 3).getLsbD 30 = false ∧ (f.word lost 3).getLsbD 31 = lost := by
  obtain ⟨hkind, hslot, -, hctxlow⟩ := word_zero_fields f lost
  obtain ⟨hm0, hm1, hm2, hm3⟩ := word_zero_marks f lost
  obtain ⟨hctxhigh, hreqlow⟩ := word_one_fields f lost
  obtain ⟨hreqhigh, hshared⟩ := word_two_fields f lost
  obtain ⟨htgthigh, hclear, hlost⟩ := word_three_fields f lost
  refine ⟨hkind, by rw [hslot]; rfl, hm0, hm1, hm2, hm3, fun h => ⟨?_, ?_⟩, fun h => ⟨?_, ?_⟩,
    fun h => ?_, fun ht hd => ?_, fun d hd => ?_, hclear, hlost⟩
  · rw [hctxhigh]; exact addrOrZero_none h 26 14
  · rw [hctxlow]; exact addrOrZero_none h 6 20
  · rw [hreqhigh]; exact addrOrZero_none h 18 22
  · rw [hreqlow]; exact addrOrZero_none h 0 18
  · rw [htgthigh]; exact addrOrZero_none h 10 30
  · rw [hshared]; exact sharedBits_of_none ht hd
  · have ht : f.target = none := hf.resolve_right (by rw [hd]; simp)
    have hbits := sharedBits_of_detail ht hd
    have hword : f.word lost 2 = (0#2 ++ d.code) ++ (addrOrZero f.request).extractLsb' 18 22 := by
      rw [← hbits]
      rfl
    rw [hword]
    exact ⟨extract_above (by decide) BitVec.extractLsb'_append_eq_right,
      extract_above (by decide) BitVec.extractLsb'_append_eq_left⟩

/-! ### The log and the result word (12.3) -/

theorem join_of_room {l : FaultLog} (h : l.records.length < 32) (f : FaultRecord) :
    l.join f = { l with records := l.records ++ [f] } := by
  unfold FaultLog.join
  exact if_pos h

theorem join_of_full {l : FaultLog} (h : 32 ≤ l.records.length) (f : FaultRecord) :
    l.join f = { l with overrun := true, dropped := true } := by
  unfold FaultLog.join
  exact if_neg (Nat.not_lt.mpr h)

theorem leBytes_two (x : BitVec 16) : leBytes 2 x.toNat = [x.extractLsb' 0 8, x.extractLsb' 8 8] := by
  have hlow : BitVec.ofNat 8 x.toNat = x.extractLsb' 0 8 := by
    apply BitVec.eq_of_toNat_eq
    rw [BitVec.toNat_ofNat, low_toNat]
  have hhigh : BitVec.ofNat 8 (x.toNat / 256) = x.extractLsb' 8 8 := by
    apply BitVec.eq_of_toNat_eq
    rw [BitVec.toNat_ofNat, BitVec.extractLsb'_toNat, Nat.shiftRight_eq_div_pow]
  unfold leBytes leBytes leBytes
  rw [hlow, hhigh]

/-! ### The registers (12.5) -/

theorem registerWords (s : State) :
    s.stateWord.extractLsb' 0 3 = s.device.code ∧
    s.stateWord.extractLsb' 8 3 = s.startResult.code ∧
    (s.cancelWord.extractLsb' 0 4).toNat = s.mgmt.cancelSlot.val ∧
    s.cancelWord.extractLsb' 8 8 = s.mgmt.cancelAnswer.code ∧
    s.logCountWord.extractLsb' 0 6 = BitVec.ofNat 6 s.log.records.length ∧
    s.logCountWord.getLsbD 8 = s.log.overrun ∧
    (s.logCountWord.extractLsb' 16 2).toNat = s.log.word.val ∧
    s.noticeWord.extractLsb' 0 3 = s.mgmt.sticky ∧
    (s.noticeWord.getLsbD 3 = true ↔ s.mgmt.threshold ≤ s.log.records.length) := by
  refine ⟨BitVec.extractLsb'_append_eq_right, ?start, ?slot, ?answer, BitVec.extractLsb'_append_eq_right,
    ?overrun, ?word, BitVec.extractLsb'_append_eq_right, ?level⟩
  case start =>
    exact extract_above (by decide) (extract_above (by decide) BitVec.extractLsb'_append_eq_right)
  case slot =>
    have h : s.cancelWord.extractLsb' 0 4 = BitVec.ofFin (w := 4) s.mgmt.cancelSlot :=
      BitVec.extractLsb'_append_eq_right
    rw [h]
    rfl
  case answer =>
    exact extract_above (by decide) (extract_above (by decide) BitVec.extractLsb'_append_eq_right)
  case overrun => exact bit_above (by decide) (bit_above (by decide) (bit_below (by decide) (ofBool_bit _)))
  case word =>
    have h : s.logCountWord.extractLsb' 16 2 = BitVec.ofFin (w := 2) s.log.word :=
      extract_above (by decide) (extract_above (by decide) (extract_above (by decide)
        (extract_above (by decide) BitVec.extractLsb'_append_eq_right)))
    rw [h]
    rfl
  case level =>
    have h : s.noticeWord.getLsbD 3 = s.logLevel :=
      bit_above (by decide) (bit_below (by decide) (ofBool_bit _))
    rw [h]
    exact decide_eq_true_iff

theorem infoWord_eq {r : SlotRecord} : r.snapshot.word0 =
    0#8 ++ lastForceCode r.lastForce ++ 0#4 ++ BitVec.ofNat 4 r.stack.length ++ 0#1 ++
      (match r.binding with
        | some b => BitVec.ofNat 2 b.level.val
        | none => 0#2) ++ BitVec.ofBool r.binding.isSome ++ r.state.code := by
  unfold SlotRecord.snapshot
  cases r.binding with
  | none => rfl
  | some b =>
    dsimp only
    rw [ofFin_eq_ofNat]

theorem registersRead (s : State) :
    s.readRegister 0x00#16 = some 0x5D141201#32 ∧
    s.readRegister 0x01#16 = some (0#21 ++ s.startResult.code ++ 0#5 ++ s.device.code) ∧
    s.readRegister 0x02#16 = some s.mgmt.rootLow ∧
    s.readRegister 0x03#16 = some (0#24 ++ s.mgmt.rootHigh) ∧
    s.readRegister 0x04#16 = some 0 ∧
    s.readRegister 0x05#16 = some (0#16 ++ s.mgmt.slotEnable) ∧
    s.readRegister 0x06#16 = some (0#20 ++ s.mgmt.responseLimit) ∧
    s.readRegister 0x07#16 = some 0 ∧
    s.readRegister 0x08#16 =
      some (0#16 ++ s.mgmt.cancelAnswer.code ++ 0#4 ++ BitVec.ofNat 4 s.mgmt.cancelSlot.val) ∧
    s.readRegister 0x09#16 = some (BitVec.ofNat 32 s.mgmt.slotSelect.val) := by
  refine ⟨rfl, rfl, rfl, ?_, rfl, ?_, ?_, rfl, ?_, rfl⟩
  · exact congrArg some (BitVec.setWidth_eq_append (by decide))
  · exact congrArg some (BitVec.setWidth_eq_append (by decide))
  · exact congrArg some (BitVec.setWidth_eq_append (by decide))
  · show some s.cancelWord = _
    unfold State.cancelWord
    rw [ofFin_eq_ofNat]

/-- Settles O53: each word by its fields, each register by its word, and each code by its set. -/
theorem recordWordsFollowTheirLayouts : Obligations.RecordWordsFollowTheirLayouts := by
  refine ⟨fun k i c r t lost hc => ?full, fun f lost hf => word_fields lost hf,
    fun l f => ⟨fun h => join_of_room h f, fun h => join_of_full h f⟩,
    fun c depth i tag => ?result, registerWords, ⟨rfl, rfl, rfl, rfl⟩, fun s => ?registers, ?codes⟩
  case full =>
    intro f
    obtain ⟨hkind, hslot, hmarks, -⟩ := word_zero_fields f lost
    obtain ⟨-, hclear, hlost⟩ := word_three_fields f lost
    obtain ⟨hcontext, hrequest, htarget⟩ := word_addresses k i c r t lost hc (f := f) rfl
    exact ⟨hkind, by rw [hslot]; rfl, hmarks.trans (marks_of_addresses rfl rfl rfl rfl), hcontext,
      hrequest, htarget, hclear, hlost⟩
  case result =>
    unfold resultWord
    rw [leBytes_two]
    rfl
  case registers =>
    obtain ⟨h0, h1, h2, h3, h4, h5, h6, h7, h8, h9⟩ := registersRead s
    refine ⟨h0, h1, h2, h3, h4, h5, h6, h7, h8, h9, fun r hr => ?info, rfl, rfl, rfl, ?count,
      fun h => congrArg some (nextWord_of_empty h), fun f rest h => congrArg some (nextWord_of_cons h),
      rfl, ?enables, rfl, fun n h => readRegister_of_large h s⟩
    case info =>
      subst hr
      exact congrArg some infoWord_eq
    case count =>
      show some s.logCountWord = _
      unfold State.logCountWord
      rw [ofFin_eq_ofNat]
    case enables => exact congrArg some (BitVec.setWidth_eq_append (by decide))
  case codes =>
    refine ⟨by decide, by decide, by decide, by decide, by decide, by decide, by decide, rfl,
      fun c => rfl, fun c => rfl, fun c => ?_⟩
    cases c <;> rfl

/-! ### The invariants of the reset state -/

theorem logBounded_reset : LogBounded State.reset := ⟨Nat.zero_le _, le_refl 1, by decide⟩

theorem storesBounded_reset : StoresBounded State.reset := by
  refine ⟨fun i => ?_, Nat.zero_le _, Nat.zero_le _⟩
  rw [reset_queues]
  exact ⟨Nat.zero_le _, Nat.zero_le _⟩

theorem mapSound_reset : MapSound State.reset := ⟨List.nodup_nil, Nat.zero_le _⟩

theorem slotSound_fresh (st : SlotState) : SlotSound (SlotRecord.fresh st) where
  budget := fun b h => by simp [SlotRecord.fresh] at h
  depth := Nat.zero_le _
  room := fun sw h => by simp [SlotRecord.fresh] at h
  atRest := fun _ => rfl

theorem slotsSound_reset : SlotsSound State.reset := fun i => by
  rw [reset_slot]
  exact slotSound_fresh .unbound

theorem startSound_reset : StartSound State.reset where
  direct := fun _ => rfl
  oneRead := Nat.zero_le _
  readWaits := fun h => absurd rfl h
  timer := fun h => absurd h (by decide)

theorem tagsSound_reset : TagsSound State.reset := by
  intro i
  have hq : State.reset.queued i = [] := by
    unfold State.queued
    rw [reset_queues]
    rfl
  have htags : State.reset.tagsInUse i = [] := by
    unfold State.tagsInUse
    rw [hq]
    rfl
  rw [htags, reset_queues]
  exact ⟨List.nodup_nil, fun r h => absurd h List.not_mem_nil, fun r h => absurd h List.not_mem_nil⟩

/-- A power-on reset of the reset state leaves it. -/
theorem powerOnReset_reset : powerOnReset State.reset = State.reset := rfl

theorem fetchSound_reset : FetchSound State.reset := by
  rw [← powerOnReset_reset]
  exact fetchSound_powerOnReset State.reset

/-- The notice line of the reset state has its condition: neither holds. -/
theorem notice_reset : State.reset.ntc = State.reset.noticeLine :=
  (noticeLine_of_quiet rfl rfl (le_refl 1)).symm

/-- Settles O54: every store of the reset state is empty, and its slots are UNBOUND at rest. -/
theorem resetHasTheInvariants : Obligations.ResetHasTheInvariants := by
  refine ⟨?_, logBounded_reset, storesBounded_reset, mapSound_reset, slotsSound_reset, startSound_reset,
    tagsSound_reset, fetchSound_reset⟩
  rw [notice_reset]
  exact noticeLine_iff State.reset

end Sys2Proof.Machine
end
